-- ==== Sys2Proof/Word.lean ====
section
/-! DEFINITION. The number words of the block: working-format values `W` (IEEE 754 binary64, rule R10), sample-format
values `S` (IEEE 754 binary32, rule R9), and `Num`, the number a word stands for.

A NaN that the block computes has no specified sign or fraction (rule R17): it is the value `nan`, without a
pattern. A pattern the host wrote is kept as written (rule R62), so a NaN pattern stays `pat b`. Log 4. -/

namespace Sys2Proof

/-- A value of the working format `W` (rule R10). -/
inductive W where
  /-- the value with this binary64 pattern -/
  | pat (b : BitVec 64)
  /-- a NaN whose sign and fraction are unspecified (rule R17) -/
  | nan
  deriving DecidableEq, Repr, Inhabited

/-- A value of the sample format `S` (rule R9). -/
inductive S where
  /-- the value with this binary32 pattern -/
  | pat (b : BitVec 32)
  /-- a NaN whose sign and fraction are unspecified (rule R17) -/
  | nan
  deriving DecidableEq, Repr, Inhabited

/-- What a floating-point word stands for. The finite number `fin neg mag` is `(-1)^neg * mag * 2^(-1074)`: every
finite `W` and every finite `S` value is a whole multiple of the least positive `W` value `2^(-1074)` (rules R9, R10),
so exact sums, differences and products are natural-number arithmetic. -/
inductive Num where
  | nan
  | inf (neg : Bool)
  | fin (neg : Bool) (mag : Nat)
  deriving DecidableEq, Repr

/-- The word `+0` (rule R39). -/
def W.zero : W := .pat 0#64

end Sys2Proof
end

