-- ==== Sys2Proof/Syntax.lean ====
section
/-! DEFINITION. The eight commands of 30_encoding.md rule R84: one constructor per row of the opcode table. -/

namespace Sys2Proof

/-- The commands. The one operand a command word carries is the band index of `DSGN_EQ` (rule R82). -/
inductive Instr where
  /-- `GEN`: generate a waveform into the buffer (rule R100) -/
  | gen
  /-- `DSGN_RES`: design the resonator coefficients (rule R131) -/
  | dsgnRes
  /-- `DSGN_EQ k`: design the coefficients of equalizer band `k` (rule R136) -/
  | dsgnEq (k : BitVec 4)
  /-- `FILT`: one filter pass over the buffer (rule R151) -/
  | filt
  /-- `NARROW`: the narrowing step over the buffer (rule R177) -/
  | narrow
  /-- `RES`: the resonator stage (rule R170) -/
  | res
  /-- `EQ`: the ten-band equalizer (rule R186) -/
  | equalize
  /-- `SYNTH`: the whole pipeline (rule R196) -/
  | synth
  deriving DecidableEq, Repr

end Sys2Proof
end

