-- ==== Sys2Proof/WellFormed.lean ====
section
/-! DEFINITION. The one check on an instruction: the band of `DSGN_EQ` is 0 to 9 (30_encoding.md rules R83, R85). -/

namespace Sys2Proof

/-- An instruction some command word stands for: the band index of `DSGN_EQ` is at most 9 (rule R83). -/
def Instr.wf : Instr → Bool
  | .gen => true
  | .dsgnRes => true
  | .dsgnEq k => decide (k.toNat ≤ 9)
  | .filt => true
  | .narrow => true
  | .res => true
  | .equalize => true
  | .synth => true

end Sys2Proof
end

