-- ==== Sys2Proof/Decode.lean ====
section
/-! DEFINITION. The decoder of 30_encoding.md rule R83, the encoder of rules R80 and R84, and the table's view of the
decoder. A command word is 32 bits: `OPC` in bits 3:0, `K` in 7:4, `ZERO` in 31:8 (rule R80). -/

namespace Sys2Proof

/-- Why a word is no command: the four lines of rule R83 that raise `E_ILLEGAL_CMD`, by name. -/
inductive DecodeError where
  /-- a bit of 31:8 is set -/
  | reservedBits
  /-- `OPC` is 0 or at least 9 -/
  | noSuchOpcode
  /-- `K` is not zero and the command takes no operand -/
  | operandNotZero
  /-- `DSGN_EQ` with `K` above 9 -/
  | bandOutOfRange
  deriving DecidableEq, Repr

/-- Bits 3:0 of a command word (rule R80). -/
def wordOpc (c : BitVec 32) : BitVec 4 := c.extractLsb' 0 4

/-- Bits 7:4 of a command word (rule R80). -/
def wordK (c : BitVec 32) : BitVec 4 := c.extractLsb' 4 4

/-- Bits 31:8 of a command word (rule R80). -/
def wordZero (c : BitVec 32) : BitVec 24 := c.extractLsb' 8 24

/-- Row `opc` of the table of rule R84 with operand `k`. -/
def commandOf (opc k : BitVec 4) : Option Instr :=
  match opc.toNat with
  | 1 => some .gen
  | 2 => some .dsgnRes
  | 3 => some (.dsgnEq k)
  | 4 => some .filt
  | 5 => some .narrow
  | 6 => some .res
  | 7 => some .equalize
  | 8 => some .synth
  | _ => none

/-- The decoder (rule R83): total, and every word is one command or illegal by name. -/
def decode (c : BitVec 32) : Except DecodeError Instr :=
  if wordZero c ≠ 0 then .error .reservedBits
  else if (wordOpc c).toNat = 0 ∨ 9 ≤ (wordOpc c).toNat then .error .noSuchOpcode
  else if (wordOpc c).toNat ≠ 3 ∧ wordK c ≠ 0 then .error .operandNotZero
  else if (wordOpc c).toNat = 3 ∧ 9 < (wordK c).toNat then .error .bandOutOfRange
  else
    match commandOf (wordOpc c) (wordK c) with
    | some i => .ok i
    | none => .error .noSuchOpcode

/-- The opcode of a command (rule R84). -/
def Instr.opcode : Instr → BitVec 4
  | .gen => 1#4
  | .dsgnRes => 2#4
  | .dsgnEq _ => 3#4
  | .filt => 4#4
  | .narrow => 5#4
  | .res => 6#4
  | .equalize => 7#4
  | .synth => 8#4

/-- The field `K` of a command's word (rules R80, R82): zero but for `DSGN_EQ`. -/
def Instr.operand : Instr → BitVec 4
  | .gen => 0#4
  | .dsgnRes => 0#4
  | .dsgnEq k => k
  | .filt => 0#4
  | .narrow => 0#4
  | .res => 0#4
  | .equalize => 0#4
  | .synth => 0#4

/-- The command word of an instruction (rules R80, R84). -/
def encode (i : Instr) : BitVec 32 := 0#24 ++ (i.operand ++ i.opcode)

/-- The mask of an instruction's row of the opcode table (rule R84). -/
def Instr.mask : Instr → BitVec 32
  | .gen => 0xFFFFFFFF#32
  | .dsgnRes => 0xFFFFFFFF#32
  | .dsgnEq _ => 0xFFFFFF0F#32
  | .filt => 0xFFFFFFFF#32
  | .narrow => 0xFFFFFFFF#32
  | .res => 0xFFFFFFFF#32
  | .equalize => 0xFFFFFFFF#32
  | .synth => 0xFFFFFFFF#32

/-- The match value of an instruction's row of the opcode table (rule R84). -/
def Instr.matchWord : Instr → BitVec 32
  | .gen => 0x00000001#32
  | .dsgnRes => 0x00000002#32
  | .dsgnEq _ => 0x00000003#32
  | .filt => 0x00000004#32
  | .narrow => 0x00000005#32
  | .res => 0x00000006#32
  | .equalize => 0x00000007#32
  | .synth => 0x00000008#32

/-- The 32-bit command word that `nbits` bits of the table's number `w` stand for; bits above are zero. -/
def tableCommandWord (nbits w : Nat) : BitVec 32 := BitVec.ofNat 32 (w % 2 ^ nbits)

/-- What the decoder reads from an instruction of the opcode table whose bits are `w`. -/
def decodeTableWord (nbits w : Nat) : Option Instr :=
  match decode (tableCommandWord nbits w) with
  | .ok i => some i
  | .error _ => none

end Sys2Proof
end

