-- ==== Sys2Proof/Config.lean ====
section
/-! DEFINITION. What an instance of the block fixes (00_scope.md rule R6, 10_state.md rule R21) and the free values.

`Config` holds the parameters that are plain data; the transcendental functions are opaque constants (rules R15, R16:
"the machine assumes nothing else of them"), bundled as `Functions` so that a definition can also be evaluated, or a
claim stated, for any other choice of them. Log 1, log 5. -/

namespace Sys2Proof

/-- `NARROW_MODE`: the rounding of `narrow` (rules R6, R14). -/
inductive NarrowMode where
  /-- round to nearest, ties to even -/
  | rne
  /-- round toward zero -/
  | rtz
  deriving DecidableEq, Repr

/-- `BIQUAD_FORM`: the realisation of the biquad recurrence (rules R6, R155). -/
inductive BiquadForm where
  | df1
  | df2
  | tdf2
  deriving DecidableEq, Repr

/-- `SIGN_ZERO`: the value of `sign(0)` (rules R6, R117). -/
inductive SignZero where
  | plusOne
  | zero
  deriving DecidableEq, Repr

/-- The implementation parameters of rule R6 that are plain data. `WORK_FMT`, `SAMPLE_FMT`, `N_BANDS` and `FC` are
fixed by the spec; `HOST_BYTE_ORDER` is not observable (rule R66, log 16). -/
structure Config where
  /-- `BUF_DEPTH`, the number of entries of the sample buffer -/
  bufDepth : Nat
  /-- `DEFAULT_RATE`, the reset value of `RATE` -/
  defaultRate : BitVec 32
  /-- `SIGN_ZERO` -/
  signZero : SignZero
  /-- `BIQUAD_FORM` -/
  biquadForm : BiquadForm
  /-- `RES_B1_DIVIDED` -/
  resB1Divided : Bool
  /-- `NARROW_MODE` -/
  narrowMode : NarrowMode
  deriving DecidableEq, Repr

/-- The constraints rule R6 and 92_eei_decisions.md put on the parameters: `1 <= BUF_DEPTH <= 2^31` and a positive
`DEFAULT_RATE`. -/
def Config.wf (c : Config) : Bool :=
  decide (1 ≤ c.bufDepth) && decide (c.bufDepth ≤ 2 ^ 31) && decide (0 < c.defaultRate.toInt)

/-- The instance with the defaults of rule R6. `BUF_DEPTH` has no default there; 65536 is the depth the test vectors
use (DESIGN CHOICE, log 1). -/
def Config.reference : Config where
  bufDepth := 65536
  defaultRate := 44100#32
  signZero := .plusOne
  biquadForm := .df1
  resB1Divided := false
  narrowMode := .rne

/-- The three configuration functions (rules R15, R16): total, of the operand alone. -/
structure Functions where
  sin : W → W
  cos : W → W
  pow10 : W → W

/-- `SIN` of the instance (rule R15). Nothing is known of it. -/
opaque Config.sin : W → W
/-- `COS` of the instance (rule R15). Nothing is known of it. -/
opaque Config.cos : W → W
/-- `POW10` of the instance (rule R16). Nothing is known of it. -/
opaque Config.pow10 : W → W

/-- The instance's functions. -/
def Config.functions : Functions where
  sin := Config.sin
  cos := Config.cos
  pow10 := Config.pow10

/-- The `n`-th unspecified 64-bit word (rules R38, R239). Nothing is known of it. -/
opaque Config.freeWord : Nat → BitVec 64

/-- The `n`-th unspecified word from which the sign and fraction of a NaN are taken (rule R17). Nothing is known of
it. -/
opaque Config.freeNaN : Nat → BitVec 64

end Sys2Proof
end

