-- ==== Sys2Proof/Machine/State.lean ====
section
/-! DEFINITION. The state of one instance of the block, as plain data (10_state.md rules R20 to R39), the fault and
refusal types, and the state after reset. -/

namespace Sys2Proof.Machine

/-- No path of the machine faults: every address is legal (rules R69, R205) and no operation traps (rule R205:
"no faults during a running command, no arithmetic exceptions"). The type is closed and empty. -/
inductive Fault where
  deriving DecidableEq, Repr

/-- Why an instruction has no meaning in the model. -/
inductive Refusal where
  /-- Raised by an arm of `exec` whose instruction has no meaning yet, with its mnemonic; no arm does. Safe: nothing
  is said of such an instruction. -/
  | notModelled (mnemonic : String)
  deriving DecidableEq, Repr

/-- The fields of `STATUS` (rule R23); its reserved bits are no state, they read zero. -/
structure Status where
  busy : Bool
  done : Bool
  err : Bool
  errCode : BitVec 4
  deriving DecidableEq, Repr

/-- `CTRL`, `RATE`, the five `W` parameter registers and the gain file (rules R24, R25, R26, R30). Only the host writes
them. -/
structure Params where
  ctrl : BitVec 8
  rate : BitVec 32
  freq : BitVec 64
  amp : BitVec 64
  dur : BitVec 64
  cutoff : BitVec 64
  resq : BitVec 64
  gain : Vector (BitVec 64) 10
  deriving DecidableEq, Repr

/-- The coefficient file (rule R31). -/
structure Coef where
  b0 : W
  b1 : W
  b2 : W
  a0 : W
  a1 : W
  a2 : W
  deriving DecidableEq, Repr

/-- The delay registers of one filter unit (rule R32): four in form DF1 (rule R152), two in DF2 (rule R156) and in TDF2
(rule R157). -/
inductive Delay where
  | df1 (x1 x2 y1 y2 : W)
  | df2 (w1 w2 : W)
  | tdf2 (s1 s2 : W)
  deriving DecidableEq, Repr

/-- `PHASE` (rule R36). -/
inductive Phase where
  | idle
  | gen
  | design
  | filt
  | narrow
  deriving DecidableEq, Repr

/-- `STAGE` (rule R36). -/
inductive Stage where
  | none
  | eq
  | res
  deriving DecidableEq, Repr

/-- The sequencer registers (rule R36). -/
structure Sequencer where
  phase : Phase
  k : BitVec 4
  i : BitVec 32
  opc : BitVec 4
  stage : Stage
  deriving DecidableEq, Repr

/-- The sample buffer memory (rule R34), as the list of the entries something has written: (index, value), indices
strictly rising (`Memory.wf`). An index that is not listed holds an unspecified value (rule R38). One word per index,
not bytes: the block has no smaller unit (rule R66, log 2). -/
abbrev Memory := List (Nat × W)

/-- The private copy a running command works on (rule R236); `base` is the model's own: where the command's free
values begin (log 3, log 14). -/
structure Work where
  buf : Memory
  len : BitVec 32
  coef : Coef
  base : Nat
  deriving DecidableEq, Repr

/-- One transaction of the host port (rules R64, R81). -/
structure Transaction where
  space : BitVec 2
  addr : BitVec 32
  we : Bool
  wdata : BitVec 64
  deriving DecidableEq, Repr

/-- What the world outside the block does next, or that the sequencer's turn comes (log 6, log 7). -/
inductive HostEvent where
  /-- a transaction; `overlap` says whether a command it starts is still running when the next event comes -/
  | access (t : Transaction) (overlap : Bool)
  /-- the sequencer moves by one step before the host does anything else -/
  | sequencer
  /-- `rst` is asserted and released (rules R230, R231) -/
  | reset
  /-- the host reads `STATUS` again and again until `BUSY` is 0 (rule R88, log 23) -/
  | wait
  deriving DecidableEq, Repr

/-- The complete state of one instance (rule R20), its configuration `cfg`, which no step changes (rule R21, log 1),
and the model's own fields `draws`, `inputs`, `rdata`. -/
structure State where
  /-- the instance's parameters (rule R6) -/
  cfg : Config
  /-- `STATUS` -/
  status : Status
  /-- the parameter registers and the gain file -/
  par : Params
  /-- the coefficient file as the host sees it -/
  coef : Coef
  /-- `BUF` as the host sees it -/
  buf : Memory
  /-- `LEN` as the host sees it -/
  len : BitVec 32
  /-- the delay registers -/
  delay : Delay
  /-- `PHASE`, `K`, `I`, `OPC`, `STAGE` -/
  seq : Sequencer
  /-- the running command's private copy -/
  work : Work
  /-- the model's own: how many free values have been drawn (log 3) -/
  draws : Nat
  /-- the model's own: what the host will do, oldest first (log 6) -/
  inputs : List HostEvent
  /-- the model's own: the data the last read returned (rule R64, log 15) -/
  rdata : BitVec 64
  deriving DecidableEq, Repr

/-- `STATUS` all zero (rule R39). -/
def Status.idle : Status where
  busy := false
  done := false
  err := false
  errCode := 0#4

/-- Every coefficient register `+0` (rule R39). -/
def Coef.zero : Coef where
  b0 := W.zero
  b1 := W.zero
  b2 := W.zero
  a0 := W.zero
  a1 := W.zero
  a2 := W.zero

/-- Delay registers all `+0`, as many as the form has (rules R32, R152, R156, R157). -/
def Delay.zero : BiquadForm → Delay
  | .df1 => .df1 W.zero W.zero W.zero W.zero
  | .df2 => .df2 W.zero W.zero
  | .tdf2 => .tdf2 W.zero W.zero

/-- The parameter registers after reset (rule R39). -/
def Params.reset (cfg : Config) : Params where
  ctrl := 0#8
  rate := cfg.defaultRate
  freq := 0#64
  amp := 0#64
  dur := 0#64
  cutoff := 0#64
  resq := 0#64
  gain := Vector.replicate 10 0#64

/-- The sequencer after reset: `PHASE = IDLE` (rule R39). The others are unspecified there; zero is the model's
(DESIGN CHOICE, log 9). -/
def Sequencer.reset : Sequencer where
  phase := .idle
  k := 0#4
  i := 0#32
  opc := 0#4
  stage := .none

/-- An empty private copy (DESIGN CHOICE, log 14). -/
def Work.reset : Work where
  buf := []
  len := 0#32
  coef := Coef.zero
  base := 0

/-- The state after reset (rule R39) of an instance with configuration `cfg`, with nothing drawn, no host event
waiting and nothing read (log 3, log 6, log 15). -/
def State.resetOf (cfg : Config) : State where
  cfg := cfg
  status := Status.idle
  par := Params.reset cfg
  coef := Coef.zero
  buf := []
  len := 0#32
  delay := Delay.zero cfg.biquadForm
  seq := Sequencer.reset
  work := Work.reset
  draws := 0
  inputs := []
  rdata := 0#64

/-- The machine right after reset (rules R39, R230), for the reference instance. -/
def State.reset : State := State.resetOf Config.reference

end Sys2Proof.Machine
end

