-- ==== Sys2Proof/Machine/Flags.lean ====
section
/-! DEFINITION. `STATUS` (10_state.md rule R23): its word, the error codes of 60_exceptions.md rule R206, and the four
values the events of rule R23 give it. These are the only flags of the block. -/

namespace Sys2Proof.Machine

/-- The causes of a rejection (rule R206). -/
inductive ErrCode where
  /-- `E_WAVE_TYPE` -/
  | waveType
  /-- `E_RATE` -/
  | rate
  /-- `E_DURATION` -/
  | duration
  /-- `E_GAIN_COUNT` -/
  | gainCount
  /-- `E_CAPACITY` -/
  | capacity
  /-- `E_ILLEGAL_CMD` -/
  | illegalCmd
  deriving DecidableEq, Repr

/-- `STATUS.ERRCODE` for a cause (rule R206). -/
def codeOf : ErrCode → BitVec 4
  | .waveType => 1#4
  | .rate => 2#4
  | .duration => 3#4
  | .gainCount => 4#4
  | .capacity => 5#4
  | .illegalCmd => 6#4

/-- `STATUS` as a 64-bit word (rule R23): `BUSY` 0, `DONE` 1, `ERR` 2, `ERRCODE` 7:4, the other bits zero. -/
def statusWord (st : Status) : BitVec 64 :=
  0#56 ++ (st.errCode ++ (0#1 ++ (BitVec.ofBool st.err ++ (BitVec.ofBool st.done ++ BitVec.ofBool st.busy))))

/-- `STATUS` when a command word is accepted (rules R23, R213). -/
def statusBusy : Status where
  busy := true
  done := false
  err := false
  errCode := 0#4

/-- `STATUS` when a command word is rejected (rules R23, R212). -/
def statusError (e : ErrCode) : Status where
  busy := false
  done := false
  err := true
  errCode := codeOf e

/-- `STATUS` when the running command completes (rules R23, R236): `BUSY` and `DONE` change, nothing else. -/
def statusComplete (st : Status) : Status where
  busy := false
  done := true
  err := st.err
  errCode := st.errCode

end Sys2Proof.Machine
end

