-- ==== Sys2Proof/Machine/Float.lean ====
section
/-! DEFINITION. The arithmetic of 00_scope.md rules R9 to R17: the layouts of binary64 and binary32, the rounding `fl`,
the four operations, `toW`, `floorW`, `narrow` and `widen`. Every operation is exact on `Num` and rounds once.

The operations are `@[irreducible]` so that no tactic unfolds a power of two by accident; `unfold`, `rw` and `simp` with
their names open them, and the kernel evaluates them (`decide +kernel`). -/

namespace Sys2Proof.Machine

/-! ## Layouts (rules R9, R10) -/

/-- The number a binary64 pattern stands for (rule R10). -/
def unpackBits (b : BitVec 64) : Num :=
  let e := b.toNat / 2 ^ 52 % 2 ^ 11
  let f := b.toNat % 2 ^ 52
  if e = 2047 then (if f = 0 then .inf b.msb else .nan)
  else if e = 0 then .fin b.msb f
  else .fin b.msb ((2 ^ 52 + f) * 2 ^ (e - 1))

/-- The number a `W` value stands for. -/
@[irreducible] def unpack : W → Num
  | .pat b => unpackBits b
  | .nan => .nan

/-- The exponent and fraction fields, as one number, of a magnitude `m` counted in units of the format's least
positive value; `fb` is the width of the fraction field. Below `2^(fb+1)` the fields are `m` itself; above, each
doubling of `m` adds one to the exponent. -/
def magFields (fb m : Nat) : Nat :=
  let t := Nat.log2 m - fb
  t * 2 ^ fb + m / 2 ^ t

/-- The `W` value of a number whose magnitude the format has (rule R10). -/
@[irreducible] def pack : Num → W
  | .nan => .nan
  | .inf neg => .pat (BitVec.ofNat 64 (neg.toNat * 2 ^ 63 + 2047 * 2 ^ 52))
  | .fin neg m => .pat (BitVec.ofNat 64 (neg.toNat * 2 ^ 63 + magFields 52 m))

/-! ## Rounding (rule R11) -/

/-- The place of the last bit kept when the magnitude `p / q` is rounded to `prec` significant bits, none of them
below `2^low`. -/
def lastPlace (prec low p q : Nat) : Nat :=
  max low (Nat.log2 (p / q) + 1 - prec)

/-- `p / q` rounded to a multiple of `2^t`, to nearest, ties to the multiple whose last bit is 0. -/
def roundNearest (p q t : Nat) : Nat :=
  let d := q * 2 ^ t
  let m := p / d
  let r := p % d
  (if d < 2 * r ∨ (2 * r = d ∧ m % 2 = 1) then m + 1 else m) * 2 ^ t

/-- `p / q` rounded to a multiple of `2^t`, toward zero. -/
def roundDown (p q t : Nat) : Nat := p / (q * 2 ^ t) * 2 ^ t

/-- The least magnitude too large for `W`: `2^1024`, in units of `2^(-1074)`. -/
@[irreducible] def overflowW : Nat := 2 ^ 2098

/-- `fl(e)` (rule R11) for the exact value `e` of sign `neg` and magnitude `p / q` units of `2^(-1074)`: to nearest
with ties to even, gradual underflow, overflow to an infinity of the sign of `e`. -/
@[irreducible] def fl (neg : Bool) (p q : Nat) : Num :=
  let m := roundNearest p q (lastPlace 53 0 p q)
  if overflowW ≤ m then .inf neg else .fin neg m

/-! ## The four operations (rule R12) -/

/-- `a + b`, rounded once. An exact zero sum of opposite-signed equal values is `+0`. -/
def addNum : Num → Num → Num
  | .nan, _ => .nan
  | _, .nan => .nan
  | .inf a, .inf b => if a = b then .inf a else .nan
  | .inf a, .fin _ _ => .inf a
  | .fin _ _, .inf b => .inf b
  | .fin a m, .fin b n =>
    if a = b then fl a (m + n) 1
    else if m = n then .fin false 0
    else if n < m then fl a (m - n) 1
    else fl b (n - m) 1

/-- The number with the opposite sign. -/
def negNum : Num → Num
  | .nan => .nan
  | .inf a => .inf (!a)
  | .fin a m => .fin (!a) m

/-- `a x b`, rounded once. -/
def mulNum : Num → Num → Num
  | .nan, _ => .nan
  | _, .nan => .nan
  | .inf a, .inf b => .inf (a ^^ b)
  | .inf a, .fin b n => if n = 0 then .nan else .inf (a ^^ b)
  | .fin a m, .inf b => if m = 0 then .nan else .inf (a ^^ b)
  | .fin a m, .fin b n => fl (a ^^ b) (m * n) (2 ^ 1074)

/-- `a / b`, rounded once. -/
def divNum : Num → Num → Num
  | .nan, _ => .nan
  | _, .nan => .nan
  | .inf _, .inf _ => .nan
  | .inf a, .fin b _ => .inf (a ^^ b)
  | .fin a _, .inf b => .fin (a ^^ b) 0
  | .fin a m, .fin b n =>
    if n = 0 then (if m = 0 then .nan else .inf (a ^^ b))
    else fl (a ^^ b) (m * 2 ^ 1074) n

/-- `a (+) b` (rule R12). -/
@[irreducible] def addW (a b : W) : W := pack (addNum (unpack a) (unpack b))

/-- `a (-) b` (rule R12). -/
@[irreducible] def subW (a b : W) : W := pack (addNum (unpack a) (negNum (unpack b)))

/-- `a (x) b` (rule R12). -/
@[irreducible] def mulW (a b : W) : W := pack (mulNum (unpack a) (unpack b))

/-- `a (/) b` (rule R12). -/
@[irreducible] def divW (a b : W) : W := pack (divNum (unpack a) (unpack b))

/-! ## Integers (rule R13) -/

/-- `toW(n)`, the conversion of an integer (rule R13). -/
@[irreducible] def toW (n : Int) : W := pack (fl (decide (n < 0)) (n.natAbs * 2 ^ 1074) 1)

/-- The magnitude, in whole ones, of the largest integer not above `(-1)^neg * m` units of `2^(-1074)`. -/
def floorMag (neg : Bool) (m : Nat) : Nat :=
  if neg then (m + (2 ^ 1074 - 1)) / 2 ^ 1074 else m / 2 ^ 1074

/-- `floorW` as a `W -> W` function (rules R13, R118): NaN for NaN, an infinity for itself, `-0` for `-0`. -/
@[irreducible] def floorW (v : W) : W :=
  match unpack v with
  | .nan => .nan
  | .inf neg => pack (.inf neg)
  | .fin neg m => pack (.fin neg (floorMag neg m * 2 ^ 1074))

/-- `floorW` as an integer (rule R13): only a finite value has one. -/
@[irreducible] def floorInt (v : W) : Option Int :=
  match unpack v with
  | .nan => none
  | .inf _ => none
  | .fin neg m => some (if neg then -(floorMag neg m : Int) else (floorMag neg m : Int))

/-- `v < 0` as a `W` comparison (rule R206): negative finite values and `-Inf`; not `-0`, not a NaN. -/
@[irreducible] def isNegative (v : W) : Bool :=
  match unpack v with
  | .nan => false
  | .inf neg => neg
  | .fin neg m => neg && decide (m ≠ 0)

/-- Is the value a NaN? -/
@[irreducible] def isNaN (v : W) : Bool :=
  match unpack v with
  | .nan => true
  | .inf _ => false
  | .fin _ _ => false

/-! ## The sample format (rules R9, R14) -/

/-- The number a binary32 pattern stands for (rule R9), counted like a `W` value: the least positive `S` value
`2^(-149)` is `2^925` units. -/
@[irreducible] def unpackSample : S → Num
  | .nan => .nan
  | .pat b =>
    let e := b.toNat / 2 ^ 23 % 2 ^ 8
    let f := b.toNat % 2 ^ 23
    if e = 255 then (if f = 0 then .inf b.msb else .nan)
    else if e = 0 then .fin b.msb (f * 2 ^ 925)
    else .fin b.msb ((2 ^ 23 + f) * 2 ^ (e - 1) * 2 ^ 925)

/-- The `S` value of a number whose magnitude the format has (rule R9). -/
@[irreducible] def packSample : Num → S
  | .nan => .nan
  | .inf neg => .pat (BitVec.ofNat 32 (neg.toNat * 2 ^ 31 + 255 * 2 ^ 23))
  | .fin neg m => .pat (BitVec.ofNat 32 (neg.toNat * 2 ^ 31 + magFields 23 (m / 2 ^ 925)))

/-- The least magnitude too large for `S`: `2^128`, in units of `2^(-1074)`. -/
@[irreducible] def overflowS : Nat := 2 ^ 1202

/-- The largest finite `S` magnitude, `0x7F7FFFFF`, in units of `2^(-1074)`. -/
@[irreducible] def largestS : Nat := (2 ^ 24 - 1) * 2 ^ 1178

/-- A finite magnitude (units of `2^(-1074)`) rounded to the sample format under `NARROW_MODE` (rule R14). -/
def roundSample (mode : NarrowMode) (neg : Bool) (m : Nat) : Num :=
  match mode with
  | .rne =>
    let r := roundNearest m 1 (lastPlace 24 925 m 1)
    if overflowS ≤ r then .inf neg else .fin neg r
  | .rtz => .fin neg (min largestS (roundDown m 1 (lastPlace 24 925 m 1)))

/-- `narrow(v)` (rule R14). -/
@[irreducible] def narrow (mode : NarrowMode) (v : W) : S :=
  match unpack v with
  | .nan => .nan
  | .inf neg => packSample (.inf neg)
  | .fin neg m => packSample (roundSample mode neg m)

/-- `widen(s)` (rule R14): exact. -/
@[irreducible] def widen (s : S) : W := pack (unpackSample s)

/-- The narrowing step on one entry: `widen(narrow(v))` (rule R176). -/
def narrowStep (mode : NarrowMode) (v : W) : W := widen (narrow mode v)

/-! ## NaN patterns (rule R17) -/

/-- The binary64 NaN whose sign and fraction are taken from `x`; a zero fraction, which would be an infinity, becomes 1.
Every NaN pattern is the image of some `x`. -/
def nanPattern (x : BitVec 64) : BitVec 64 :=
  let f := x.toNat % 2 ^ 52
  BitVec.ofNat 64 (x.msb.toNat * 2 ^ 63 + 2047 * 2 ^ 52 + (if f = 0 then 1 else f))

/-- The binary32 NaN whose sign and fraction are taken from the low half of `x`; a zero fraction becomes 1. -/
def nanSample (x : BitVec 64) : BitVec 32 :=
  let y : BitVec 32 := x.setWidth 32
  let f := y.toNat % 2 ^ 23
  BitVec.ofNat 32 (y.msb.toNat * 2 ^ 31 + 255 * 2 ^ 23 + (if f = 0 then 1 else f))

/-- The 64 bits a read of a `W` value returns; `n` names the draw that a NaN without a pattern takes. -/
def bitsOf (n : Nat) : W → BitVec 64
  | .pat b => b
  | .nan => nanPattern (Config.freeNaN n)

/-- The 32 bits a read of an `S` value returns; `n` names the draw that a NaN without a pattern takes. -/
def sampleBitsOf (n : Nat) : S → BitVec 32
  | .pat b => b
  | .nan => nanSample (Config.freeNaN n)

/-! ## Constants (rule R16) -/

def wOne : W := .pat 0x3FF0000000000000#64
def wTwo : W := .pat 0x4000000000000000#64
def wFour : W := .pat 0x4010000000000000#64
def wHalf : W := .pat 0x3FE0000000000000#64
def wForty : W := .pat 0x4044000000000000#64
def wMinusOne : W := .pat 0xBFF0000000000000#64
def wMinusTwo : W := .pat 0xC000000000000000#64
/-- `TWO_PI = fl(2π)` -/
def wTwoPi : W := .pat 0x401921FB54442D18#64
/-- `TWO_SQRT2 = 2 x fl(√2)` -/
def wTwoSqrt2 : W := .pat 0x4006A09E667F3BCD#64

end Sys2Proof.Machine
end

