-- ==== Sys2Proof/Machine/Operands.lean ====
section
/-! DEFINITION. The operands of the commands: the fields of `CTRL` (10_state.md rule R24), the gain file (R30), the
centre-frequency table (R33), the length `N` (40_sine_cosine_generator.md rule R101) and the comparisons of
60_exceptions.md rule R206. -/

namespace Sys2Proof.Machine

/-- The wave types (rule R24). -/
inductive Wave where
  | sine
  | square
  | sawtooth
  deriving DecidableEq, Repr

/-- `CTRL.WAVE_TYPE` (rule R24): the value 3 is no wave type. -/
def waveOf (p : Params) : Option Wave :=
  match (p.ctrl.extractLsb' 0 2).toNat with
  | 0 => some .sine
  | 1 => some .square
  | 2 => some .sawtooth
  | _ => none

/-- `CTRL.EQ_EN` (rule R24). -/
def eqEn (p : Params) : Bool := p.ctrl.getLsbD 2

/-- `CTRL.RES_EN` (rule R24). -/
def resEn (p : Params) : Bool := p.ctrl.getLsbD 3

/-- `CTRL.GAIN_CNT` (rule R24). -/
def gainCnt (p : Params) : Nat := (p.ctrl.extractLsb' 4 4).toNat

/-- `RATE` as a signed integer (rule R25). -/
def rateInt (p : Params) : Int := p.rate.toInt

/-- `FREQ` as a `W` value (rule R26). -/
def freqW (p : Params) : W := .pat p.freq

/-- `AMP` as a `W` value (rule R26). -/
def ampW (p : Params) : W := .pat p.amp

/-- `DUR` as a `W` value (rule R26). -/
def durW (p : Params) : W := .pat p.dur

/-- `CUTOFF` as a `W` value (rule R26). -/
def cutoffW (p : Params) : W := .pat p.cutoff

/-- `RESQ` as a `W` value (rule R26). -/
def resqW (p : Params) : W := .pat p.resq

/-- `GAIN[k]` as a `W` value (rule R30); `k` above 9 names no register and no command reads it. -/
def gainW (p : Params) (k : BitVec 4) : W :=
  if h : k.toNat < 10 then .pat (p.gain[k.toNat]) else W.zero

/-- The pattern of `FC[k]` (rule R33); no row above 9. -/
def fcBits (k : Nat) : BitVec 64 :=
  match k with
  | 0 => 0x404E000000000000#64
  | 1 => 0x4065400000000000#64
  | 2 => 0x4073600000000000#64
  | 3 => 0x4082C00000000000#64
  | 4 => 0x408F400000000000#64
  | 5 => 0x40A7700000000000#64
  | 6 => 0x40B7700000000000#64
  | 7 => 0x40C7700000000000#64
  | 8 => 0x40CB580000000000#64
  | 9 => 0x40CF400000000000#64
  | _ => 0#64

/-- `FC[k]` as a `W` value (rule R33). -/
def fcW (k : BitVec 4) : W := .pat (fcBits k.toNat)

/-- `p = toW(RATE) (x) DUR` (rules R101, R209). -/
@[irreducible] def lengthProduct (p : Params) : W := mulW (toW (rateInt p)) (durW p)

/-- `N = floorW(p)` (rule R101), where `p` is finite. -/
@[irreducible] def genLength (p : Params) : Option Nat := (floorInt (lengthProduct p)).map Int.toNat

/-- `N` as the running command uses it: rule R209 has made it a number before a command runs. -/
@[irreducible] def genLengthD (p : Params) : Nat := (genLength p).getD 0

end Sys2Proof.Machine
end

