-- ==== Sys2Proof/Machine/Ops.lean ====
section
/-! DEFINITION. The named operations over the buffer memory and the registers, the argument checks, and how a command
word is rejected, accepted and completed (60_exceptions.md rules R209, R212, R213, 70_reset_and_hazards.md rule R236).
A rejection is the block's one way to raise an error (rule R205): it is the shared operation `reject`. There is no
return from it (rule R214). -/

namespace Sys2Proof.Machine

/-! ## The buffer memory (10_state.md rule R34) -/

/-- The value of entry `i`, if something has written it (rule R38). -/
def Memory.read : Memory → Nat → Option W
  | [], _ => none
  | (j, v) :: m, i => if i = j then some v else if i < j then none else Memory.read m i

/-- `BUF[i] <- v`. -/
def Memory.write : Memory → Nat → W → Memory
  | [], i, v => [(i, v)]
  | (j, u) :: m, i, v =>
    if i = j then (i, v) :: m
    else if i < j then (i, v) :: (j, u) :: m
    else (j, u) :: Memory.write m i v

/-- `BUF[i], BUF[i+1], ... <- vs`, in order. -/
def Memory.writeList : Memory → Nat → List W → Memory
  | m, _, [] => m
  | m, i, v :: vs => Memory.writeList (Memory.write m i v) (i + 1) vs

/-- The canonical form: indices strictly rising. An unlisted entry reads as no value, so no listed entry equals it. -/
def Memory.wf : Memory → Bool
  | [] => true
  | (j, _) :: m =>
    (match m with
     | [] => true
     | (k, _) :: _ => decide (j < k)) && Memory.wf m

/-- Every written entry lies below `n`. -/
def Memory.below (n : Nat) (m : Memory) : Bool := m.all fun e => decide (e.1 < n)

/-! ## The running command's private copy (rule R236) -/

/-- `BUF[i]` as the running command reads it; an entry nothing has written is a free value (rule R38, log 3). -/
def readEntry (w : Work) (i : Nat) : W :=
  (Memory.read w.buf i).getD (.pat (Config.freeWord (w.base + i)))

/-- `BUF[0..LEN-1]` as the running command reads it. -/
def readEntries (w : Work) : List W := (List.range w.len.toNat).map (readEntry w)

/-- `BUF[0], BUF[1], ... <- vs` in the private copy. -/
def storeEntries (vs : List W) (s : State) : State :=
  { s with work := { s.work with buf := Memory.writeList s.work.buf 0 vs } }

/-- `BUF[i] <- v` in the private copy. -/
def storeEntry (i : Nat) (v : W) (s : State) : State :=
  { s with work := { s.work with buf := Memory.write s.work.buf i v } }

/-- `LEN <- n` in the private copy. -/
def storeLen (n : Nat) (s : State) : State :=
  { s with work := { s.work with len := BitVec.ofNat 32 n } }

/-- `COEF <- c`, all six at once (rule R130), in the private copy. -/
def storeCoef (c : Coef) (s : State) : State :=
  { s with work := { s.work with coef := c } }

/-- The delay registers. -/
def setDelay (d : Delay) (s : State) : State := { s with delay := d }

/-! ## The sequencer registers (rule R36) -/

/-- `PHASE <- p` (rule R8). -/
def setPhase (p : Phase) (s : State) : State := { s with seq := { s.seq with phase := p } }

/-- `I <- i`. -/
def setIndex (i : BitVec 32) (s : State) : State := { s with seq := { s.seq with i := i } }

/-- `K <- k`. -/
def setBand (k : BitVec 4) (s : State) : State := { s with seq := { s.seq with k := k } }

/-- `STAGE <- g`. -/
def setStage (g : Stage) (s : State) : State := { s with seq := { s.seq with stage := g } }

/-! ## The argument checks (rules R209, R210) -/

/-- The generator's checks, in the order of rule R209. -/
def genCheck (cfg : Config) (p : Params) : Option ErrCode :=
  if waveOf p = none then some .waveType
  else if rateInt p ≤ 0 then some .rate
  else if isNegative (durW p) = true then some .duration
  else
    match genLength p with
    | none => some .capacity
    | some n => if cfg.bufDepth < n then some .capacity else none

/-- The equalizer's check (rules R187, R209). -/
def gainCheck (p : Params) : Option ErrCode :=
  if gainCnt p < 10 then some .gainCount else none

/-- `checks(opc)` of rule R209: the first check that fails. A band index above 9 is the decoder's error (rule R136). -/
def argCheck (cfg : Config) (p : Params) : Instr → Option ErrCode
  | .gen => genCheck cfg p
  | .dsgnRes => none
  | .dsgnEq k => if k.toNat ≤ 9 then none else some .illegalCmd
  | .filt => none
  | .narrow => none
  | .res => none
  | .equalize => gainCheck p
  | .synth =>
    match genCheck cfg p with
    | some e => some e
    | none => if eqEn p = true then gainCheck p else none

/-! ## Rejection, acceptance, completion -/

/-- `raise E(code)` (rule R212): `STATUS` changes, nothing else does. -/
def reject (e : ErrCode) (s : State) : State := { s with status := statusError e }

/-- The first phase of a command (rule R200). -/
def firstPhase : Instr → Phase
  | .gen => .gen
  | .dsgnRes => .design
  | .dsgnEq _ => .design
  | .filt => .filt
  | .narrow => .narrow
  | .res => .design
  | .equalize => .design
  | .synth => .gen

/-- The free values a command may draw for entries nothing has written: one for each entry it reads before writing
(rule R38, log 3). `GEN` and the designers read no entry, `SYNTH` reads only what its generator wrote. -/
def entriesRead (len : BitVec 32) : Instr → Nat
  | .gen => 0
  | .dsgnRes => 0
  | .dsgnEq _ => 0
  | .filt => len.toNat
  | .narrow => len.toNat
  | .res => len.toNat
  | .equalize => len.toNat
  | .synth => 0

/-- The private copy a command starts from (rules R234, R236). -/
def takeWork (s : State) : Work where
  buf := s.buf
  len := s.len
  coef := s.coef
  base := s.draws

/-- Acceptance (rule R213): `STATUS` busy, the sequencer at the command's first phase, `K` the operand (rule R82), the
private copy taken. A command whose first phase is the filter starts from zeroed delay registers (rule R152). -/
def accept (i : Instr) (s : State) : State :=
  { s with
    status := statusBusy
    delay := if firstPhase i = .filt then Delay.zero s.cfg.biquadForm else s.delay
    seq := { phase := firstPhase i, k := i.operand, i := 0#32, opc := i.opcode, stage := .none }
    work := takeWork s
    draws := s.draws + entriesRead s.len i }

/-- Completion (rules R200, R236): the whole effect becomes visible with `BUSY <- 0`, `DONE <- 1`, `PHASE <- IDLE`.
`K`, `I`, `OPC`, `STAGE`, the delay registers and the private copy keep what the command left in them, where the spec
allows any value (DESIGN CHOICE, log 25). -/
def complete (s : State) : State :=
  { s with
    status := statusComplete s.status
    coef := s.work.coef
    buf := s.work.buf
    len := s.work.len
    seq := { s.seq with phase := .idle } }

/-- A whole run of a command (rules R234 to R236): the word of `i` is presented, is dropped while another command runs
(rule R238), is rejected, or is accepted and runs to completion with the effect `effect`. -/
def runCommand (i : Instr) (effect : State → State) (s : State) : Host.Outcome State Fault Refusal :=
  if s.status.busy = true then .next s
  else
    match argCheck s.cfg s.par i with
    | some e => .next (reject e s)
    | none => .next (complete (effect (accept i s)))

/-- The word of `i` is presented and, if accepted, still runs when this step ends (rules R213, R234). -/
def startCommand (i : Instr) (s : State) : State :=
  if s.status.busy = true then s
  else
    match argCheck s.cfg s.par i with
    | some e => reject e s
    | none => accept i s

/-- `rst` (rules R230, R231): the reset state of this instance. What the host will do, the count of free values and
the last read data are the model's own and stay. -/
def resetState (s : State) : State :=
  { State.resetOf s.cfg with draws := s.draws, inputs := s.inputs, rdata := s.rdata }

end Sys2Proof.Machine
end

