-- ==== Sys2Proof/Machine/Chain.lean ====
section
/-! DEFINITION. The narrowing step and `NARROW` (45_cascaded_biquad_chain.md rules R176, R177). -/

namespace Sys2Proof.Machine

/-- The narrowing stage: `for i in 0..LEN: BUF[i] <- widen(narrow(BUF[i]))` (rules R176, R177). -/
def narrowStage (s : State) : State :=
  setIndex s.work.len
    (storeEntries ((readEntries s.work).map (narrowStep s.cfg.narrowMode)) s)

/-- `NARROW` (rule R177). -/
def execNarrow (s : State) : Host.Outcome State Fault Refusal :=
  runCommand .narrow narrowStage s

end Sys2Proof.Machine
end

