-- ==== Sys2Proof/Machine/Generator.lean ====
section
/-! DEFINITION. `GEN`: the sine/cosine unit, the time base, the three waveforms (40_sine_cosine_generator.md,
41_square_sawtooth_generator.md). -/

namespace Sys2Proof.Machine

/-- A `W` value with every NaN pattern forgotten: the configuration functions depend on the operand alone (rule R15),
and of a NaN only that it is a NaN is observed (rule R17). -/
def forgetNaN (v : W) : W := if isNaN v = true then .nan else v

/-- One of the configuration functions as the block uses it (rules R15, R16, R17, log 5). -/
def applyFn (g : W → W) (v : W) : W := forgetNaN (g (forgetNaN v))

/-- `t_i` (rule R102): one division, from the index itself. -/
def timeOf (rate : Int) (i : Nat) : W := divW (toW (i : Int)) (toW rate)

/-- `ph_i` (rule R105): `(TWO_PI (x) FREQ) (x) t`, also at index 0 for `FREQ = -0` and where `TWO_PI (x) FREQ` overflows
(DEDUCED, log 28). -/
def phaseOf (freq t : W) : W := mulW (mulW wTwoPi freq) t

/-- The Sine sample (rule R104): its pseudocode, also for `AMP = -0` (DEDUCED, log 27). -/
def sineSample (f : Functions) (freq amp t : W) : W :=
  mulW amp (applyFn f.sin (phaseOf freq t))

/-- `sign` (rule R117). -/
def signW (z : SignZero) (v : W) : W :=
  match unpack v with
  | .nan => .nan
  | .inf neg => if neg then wMinusOne else wOne
  | .fin neg m =>
    if m = 0 then
      (match z with
       | .plusOne => wOne
       | .zero => W.zero)
    else if neg then wMinusOne else wOne

/-- The Square sample (rule R116): its pseudocode, also for an infinite `AMP`, where the rule's corner-case sentence says
NaN (DEDUCED, log 26). -/
def squareSample (f : Functions) (z : SignZero) (freq amp t : W) : W :=
  mulW amp (signW z (applyFn f.sin (phaseOf freq t)))

/-- The Sawtooth sample (rule R118): its pseudocode, also for `AMP = -0` (DEDUCED, log 27) and
for a `FREQ` with the sign bit set, an infinity or a NaN at index 0 (DEDUCED, log 28). -/
def sawSample (freq amp t : W) : W :=
  let p := mulW freq t
  let q := floorW (addW p wHalf)
  let r := subW p q
  mulW amp (mulW wTwo r)

/-- The sample of a waveform at time `t` (rule R100). -/
def waveSample (f : Functions) (z : SignZero) (wave : Wave) (freq amp t : W) : W :=
  match wave with
  | .sine => sineSample f freq amp t
  | .square => squareSample f z freq amp t
  | .sawtooth => sawSample freq amp t

/-- Sample `i` of `GEN` with functions `f` (rules R100, R102). Rule R209 rejects `WAVE_TYPE = 3` before any sample is
made; the sine stands there only to make the function total (log 20). -/
def genSampleWith (f : Functions) (cfg : Config) (p : Params) (i : Nat) : W :=
  waveSample f cfg.signZero ((waveOf p).getD .sine) (freqW p) (ampW p) (timeOf (rateInt p) i)

/-- Sample `i` of `GEN` on this instance. -/
def genSample (cfg : Config) (p : Params) (i : Nat) : W := genSampleWith Config.functions cfg p i

/-- The generator stage (rule R100): `BUF[0..N-1]` and `LEN <- N`. -/
def genStage (s : State) : State :=
  setIndex (BitVec.ofNat 32 (genLengthD s.par))
    (storeLen (genLengthD s.par)
      (storeEntries ((List.range (genLengthD s.par)).map (genSample s.cfg s.par)) s))

/-- `GEN` (rule R100). -/
def execGen (s : State) : Host.Outcome State Fault Refusal :=
  runCommand .gen genStage s

end Sys2Proof.Machine
end

