-- ==== Sys2Proof/Machine/Designer.lean ====
section
/-! DEFINITION. The biquad coefficient designer: `DSGN_RES` and `DSGN_EQ k` (42_biquad_coefficient_designer.md). -/

namespace Sys2Proof.Machine

/-- `nyq = toW(rate) (/) 2` (rules R132, R137). -/
def nyquist (rate : Int) : W := divW (toW rate) wTwo

/-- `design_res(cutoff, Q, rate)` (rule R132); `divided` is `RES_B1_DIVIDED` (rule R133). Nothing is normalised. -/
def designRes (f : Functions) (divided : Bool) (cutoff q : W) (rate : Int) : Coef :=
  let fr := divW cutoff (nyquist rate)
  let w0 := mulW wTwoPi fr
  let sn := applyFn f.sin w0
  let cs := applyFn f.cos w0
  let alpha := divW sn (mulW wTwo q)
  let a0 := addW wOne alpha
  let b0 := divW wOne a0
  let m2c := mulW wMinusTwo cs
  { b0 := b0
    b1 := if divided then divW m2c a0 else m2c
    b2 := b0
    a0 := a0
    a1 := m2c
    a2 := subW wOne alpha }

/-- `design_eq(fc, gainDb, rate)` (rule R137). -/
def designEq (f : Functions) (fc gainDb : W) (rate : Int) : Coef :=
  let fr := divW fc (nyquist rate)
  let a := applyFn f.pow10 (divW gainDb wForty)
  let w := mulW wTwoPi fr
  let w2 := mulW w w
  let sw := mulW wTwoSqrt2 w
  let denom := addW (addW wFour sw) w2
  let b0 := divW (mulW a w2) denom
  { b0 := b0
    b1 := divW (mulW (mulW wTwo a) w2) denom
    b2 := b0
    a0 := wOne
    a1 := divW (mulW wTwo (subW w2 wFour)) denom
    a2 := divW (addW (subW wFour sw) w2) denom }

/-- The resonator set of the parameter registers (rule R131). -/
def resCoef (cfg : Config) (p : Params) : Coef :=
  designRes Config.functions cfg.resB1Divided (cutoffW p) (resqW p) (rateInt p)

/-- The set of equalizer band `k` of the parameter registers (rule R136). -/
def bandCoef (p : Params) (k : BitVec 4) : Coef :=
  designEq Config.functions (fcW k) (gainW p k) (rateInt p)

/-- `COEF <- design_res(CUTOFF, RESQ, RATE)`. -/
def designResStage (s : State) : State := storeCoef (resCoef s.cfg s.par) s

/-- `COEF <- design_eq(FC[k], GAIN[k], RATE)`. -/
def designBandStage (k : BitVec 4) (s : State) : State := storeCoef (bandCoef s.par k) s

/-- `DSGN_RES` (rule R131). -/
def execDsgnRes (s : State) : Host.Outcome State Fault Refusal :=
  runCommand .dsgnRes designResStage s

/-- `DSGN_EQ k` (rule R136). -/
def execDsgnEq (k : BitVec 4) (s : State) : Host.Outcome State Fault Refusal :=
  runCommand (.dsgnEq k) (designBandStage k) s

end Sys2Proof.Machine
end

