-- ==== Sys2Proof/Machine/Filter.lean ====
section
/-! DEFINITION. The biquad filter pass and `FILT` (43_biquad_filter_df2.md), in the three forms of rule R155. `COEF.A0`
is read nowhere (rule R154). -/

namespace Sys2Proof.Machine

/-- `step_df1` (rule R153): five products, four sums, in this order. -/
def stepDf1 (c : Coef) (x0 x1 x2 y1 y2 : W) : W :=
  let acc := mulW c.b0 x0
  let acc := addW acc (mulW c.b1 x1)
  let acc := addW acc (mulW c.b2 x2)
  let acc := subW acc (mulW c.a1 y1)
  subW acc (mulW c.a2 y2)

/-- One sample through the filter: the output and the delay registers after it (rules R152, R156, R157). -/
def filterStep (c : Coef) : Delay → W → W × Delay
  | .df1 x1 x2 y1 y2, x0 =>
    let y0 := stepDf1 c x0 x1 x2 y1 y2
    (y0, .df1 x0 x1 y0 y1)
  | .df2 w1 w2, x0 =>
    let w0 := subW (subW x0 (mulW c.a1 w1)) (mulW c.a2 w2)
    let y0 := addW (addW (mulW c.b0 w0) (mulW c.b1 w1)) (mulW c.b2 w2)
    (y0, .df2 w0 w1)
  | .tdf2 s1 s2, x0 =>
    let y0 := addW (mulW c.b0 x0) s1
    let t1 := addW (subW (mulW c.b1 x0) (mulW c.a1 y0)) s2
    let t2 := subW (mulW c.b2 x0) (mulW c.a2 y0)
    (y0, .tdf2 t1 t2)

/-- The outputs for the inputs `xs` from delay registers `d`, and the delay registers after them. -/
def filterList (c : Coef) : Delay → List W → List W × Delay
  | d, [] => ([], d)
  | d, x :: xs =>
    let (y, d') := filterStep c d x
    let (ys, d'') := filterList c d' xs
    (y :: ys, d'')

/-- One pass (rules R150, R152): from zeroed delay registers. -/
def filterPass (form : BiquadForm) (c : Coef) (xs : List W) : List W :=
  (filterList c (Delay.zero form) xs).1

/-- The delay registers after a pass; nothing reads them (rule R32). -/
def delayAfter (form : BiquadForm) (c : Coef) (xs : List W) : Delay :=
  (filterList c (Delay.zero form) xs).2

/-- The filter stage: `BUF[0..LEN-1] <- pass(COEF, BUF[0..LEN-1])` (rule R151). -/
def filtStage (s : State) : State :=
  let xs := readEntries s.work
  setIndex s.work.len
    (setDelay (delayAfter s.cfg.biquadForm s.work.coef xs)
      (storeEntries (filterPass s.cfg.biquadForm s.work.coef xs) s))

/-- `FILT` (rule R151). -/
def execFilt (s : State) : Host.Outcome State Fault Refusal :=
  runCommand .filt filtStage s

end Sys2Proof.Machine
end

