-- ==== Sys2Proof/Machine/Equalizer.lean ====
section
/-! DEFINITION. The ten-band equalizer and `EQ` (46_parametric_eq_10band.md), which drives the chain of
45_cascaded_biquad_chain.md rule R175. -/

namespace Sys2Proof.Machine

/-- Band `k` of the equalizer (rules R175, R186): design, pass, narrowing. -/
def bandStage (k : BitVec 4) (s : State) : State :=
  narrowStage (filtStage (designBandStage k (setBand k s)))

/-- The bands in their order (rule R175). -/
def bandOrder : List (BitVec 4) := [0#4, 1#4, 2#4, 3#4, 4#4, 5#4, 6#4, 7#4, 8#4, 9#4]

/-- The equalizer stage (rule R186): the ten bands one after the other. -/
def eqStage (s : State) : State := bandOrder.foldl (fun t k => bandStage k t) s

/-- `EQ` (rule R186). -/
def execEqualize (s : State) : Host.Outcome State Fault Refusal :=
  runCommand .equalize eqStage s

end Sys2Proof.Machine
end

