-- ==== Sys2Proof/Machine/Resonator.lean ====
section
/-! DEFINITION. The resonator stage and `RES` (44_resonator_stage.md). No narrowing (rule R172). -/

namespace Sys2Proof.Machine

/-- The resonator stage (rule R170): design, then one pass. -/
def resStage (s : State) : State := filtStage (designResStage s)

/-- `RES` (rule R170). -/
def execRes (s : State) : Host.Outcome State Fault Refusal :=
  runCommand .res resStage s

end Sys2Proof.Machine
end

