-- ==== Sys2Proof/Machine/Pipeline.lean ====
section
/-! DEFINITION. The synthesis pipeline and `SYNTH` (47_synthesis_pipeline.md rules R196, R197). -/

namespace Sys2Proof.Machine

/-- The pipeline (rule R196): generator, then equalizer if enabled, then resonator if enabled. -/
def synthStage (s : State) : State :=
  let s1 := genStage s
  let s2 := if eqEn s.par = true then eqStage (setStage .eq s1) else s1
  if resEn s.par = true then resStage (setStage .res s2) else s2

/-- `SYNTH` (rule R196). -/
def execSynth (s : State) : Host.Outcome State Fault Refusal :=
  runCommand .synth synthStage s

end Sys2Proof.Machine
end

