-- ==== Sys2Proof/Machine/Dispatch.lean ====
section
/-! DEFINITION. The dispatch of the eight commands to their meanings (30_encoding.md rule R84). -/

namespace Sys2Proof.Machine

def exec (i : Instr) (s : State) : Host.Outcome State Fault Refusal :=
  match i with
  | .gen => Sys2Proof.Machine.execGen s
  | .dsgnRes => Sys2Proof.Machine.execDsgnRes s
  | .dsgnEq k => Sys2Proof.Machine.execDsgnEq k s
  | .filt => Sys2Proof.Machine.execFilt s
  | .narrow => Sys2Proof.Machine.execNarrow s
  | .res => Sys2Proof.Machine.execRes s
  | .equalize => Sys2Proof.Machine.execEqualize s
  | .synth => Sys2Proof.Machine.execSynth s

end Sys2Proof.Machine
end

