-- ==== Sys2Proof/Machine/Registers.lean ====
section
/-! DEFINITION. The `REG` space (20_memory.md rule R61): the register numbers of 10_state.md rules R22 to R33, what a host
read of each returns and what a host write of each does. -/

namespace Sys2Proof.Machine

/-- The coefficient registers (rule R31). -/
inductive CoefName where
  | b0
  | b1
  | b2
  | a0
  | a1
  | a2
  deriving DecidableEq, Repr

/-- The registers of the `REG` space (rules R22 to R33). -/
inductive RegName where
  | cmd
  | status
  | ctrl
  | rate
  | len
  | depth
  | freq
  | amp
  | dur
  | cutoff
  | resq
  | gain (k : Fin 10)
  | coef (c : CoefName)
  | fc (k : Fin 10)
  deriving DecidableEq, Repr

/-- The offset of a coefficient register from `0x20` (rule R31). -/
def coefOffset : CoefName → Nat
  | .b0 => 0
  | .b1 => 1
  | .b2 => 2
  | .a0 => 3
  | .a1 => 4
  | .a2 => 5

/-- The coefficient register at an offset from `0x20` (rule R31). -/
def coefAt (n : Nat) : Option CoefName :=
  match n with
  | 0 => some .b0
  | 1 => some .b1
  | 2 => some .b2
  | 3 => some .a0
  | 4 => some .a1
  | 5 => some .a2
  | _ => none

/-- The number of a register (rules R22 to R33). -/
def regNumber : RegName → Nat
  | .cmd => 0x00
  | .status => 0x01
  | .ctrl => 0x02
  | .rate => 0x03
  | .len => 0x04
  | .depth => 0x05
  | .freq => 0x08
  | .amp => 0x09
  | .dur => 0x0A
  | .cutoff => 0x0B
  | .resq => 0x0C
  | .gain k => 0x10 + k.val
  | .coef c => 0x20 + coefOffset c
  | .fc k => 0x30 + k.val

/-- The register with a number; none for the numbers of rule R29 and above `0xFF` (rule R61). -/
def regAt (n : Nat) : Option RegName :=
  if n < 0x10 then
    match n with
    | 0x00 => some .cmd
    | 0x01 => some .status
    | 0x02 => some .ctrl
    | 0x03 => some .rate
    | 0x04 => some .len
    | 0x05 => some .depth
    | 0x08 => some .freq
    | 0x09 => some .amp
    | 0x0A => some .dur
    | 0x0B => some .cutoff
    | 0x0C => some .resq
    | _ => none
  else if n < 0x20 then
    if h : n - 0x10 < 10 then some (.gain ⟨n - 0x10, h⟩) else none
  else if n < 0x30 then (coefAt (n - 0x20)).map .coef
  else if h : n - 0x30 < 10 then some (.fc ⟨n - 0x30, h⟩)
  else none

/-- A coefficient register's value (rule R31). -/
def coefGet (c : Coef) : CoefName → W
  | .b0 => c.b0
  | .b1 => c.b1
  | .b2 => c.b2
  | .a0 => c.a0
  | .a1 => c.a1
  | .a2 => c.a2

/-- The coefficient file with one register written (rule R31). -/
def coefSet (c : Coef) (v : W) : CoefName → Coef
  | .b0 => { c with b0 := v }
  | .b1 => { c with b1 := v }
  | .b2 => { c with b2 := v }
  | .a0 => { c with a0 := v }
  | .a1 => { c with a1 := v }
  | .a2 => { c with a2 := v }

/-- What a host read of a register returns while the block is idle (rules R22 to R33). -/
def regReadIdle (s : State) : RegName → BitVec 64
  | .cmd => 0#64
  | .status => statusWord s.status
  | .ctrl => s.par.ctrl.setWidth 64
  | .rate => s.par.rate.setWidth 64
  | .len => s.len.setWidth 64
  | .depth => BitVec.ofNat 64 s.cfg.bufDepth
  | .freq => s.par.freq
  | .amp => s.par.amp
  | .dur => s.par.dur
  | .cutoff => s.par.cutoff
  | .resq => s.par.resq
  | .gain k => s.par.gain[k]
  | .coef c => bitsOf s.draws (coefGet s.coef c)
  | .fc k => fcBits k.val

/-- What a host read of a register returns while a command runs (rule R239): `LEN` and the coefficient registers are
unspecified, `LEN` with its upper half zero (10_state.md section 2, log 8). -/
def regReadBusy (s : State) : RegName → BitVec 64
  | .len => ((Config.freeWord s.draws).setWidth 32).setWidth 64
  | .coef _ => Config.freeWord s.draws
  | .cmd => regReadIdle s .cmd
  | .status => regReadIdle s .status
  | .ctrl => regReadIdle s .ctrl
  | .rate => regReadIdle s .rate
  | .depth => regReadIdle s .depth
  | .freq => regReadIdle s .freq
  | .amp => regReadIdle s .amp
  | .dur => regReadIdle s .dur
  | .cutoff => regReadIdle s .cutoff
  | .resq => regReadIdle s .resq
  | .gain k => regReadIdle s (.gain k)
  | .fc k => regReadIdle s (.fc k)

/-- `MemRead(REG, n)` (rules R61, R239): zero where there is no register. -/
def regRead (s : State) (n : Nat) : BitVec 64 :=
  match regAt n with
  | none => 0#64
  | some r => if s.status.busy = true then regReadBusy s r else regReadIdle s r

/-- What a host write of `v` to a register stores while the block is idle (rules R22 to R33). `CMD` stores nothing; a
read-only register ignores the write; `LEN` takes a length the buffer has (rule R27). -/
def regStore (v : BitVec 64) (s : State) : RegName → State
  | .cmd => s
  | .status => s
  | .ctrl => { s with par := { s.par with ctrl := v.setWidth 8 } }
  | .rate => { s with par := { s.par with rate := v.setWidth 32 } }
  | .len => if (v.setWidth 32).toNat ≤ s.cfg.bufDepth then { s with len := v.setWidth 32 } else s
  | .depth => s
  | .freq => { s with par := { s.par with freq := v } }
  | .amp => { s with par := { s.par with amp := v } }
  | .dur => { s with par := { s.par with dur := v } }
  | .cutoff => { s with par := { s.par with cutoff := v } }
  | .resq => { s with par := { s.par with resq := v } }
  | .gain k => { s with par := { s.par with gain := s.par.gain.set k v } }
  | .coef c => { s with coef := coefSet s.coef (.pat v) c }
  | .fc _ => s

end Sys2Proof.Machine
end

