-- ==== Sys2Proof/Machine/Sequencer.lean ====
section
/-! DEFINITION. The control flow of the sequencer in its micro-steps (47_synthesis_pipeline.md rule R200): one sample, one
design or one change of phase at a time, on the private copy of rule R236 (log 13). -/

namespace Sys2Proof.Machine

/-- Is the sequencer in the equalizer sequence: `EQ`, or `SYNTH` at `STAGE = S_EQ` (rule R200)? -/
def inEqualizer (q : Sequencer) : Bool :=
  q.opc == 7#4 || (q.opc == 8#4 && q.stage == .eq)

/-- To `P_DESIGN`. -/
def enterDesign (s : State) : State := setPhase .design s

/-- To `P_FILT(I = 0..LEN)`, the delay registers zeroed (rule R152). -/
def enterFilt (s : State) : State :=
  setDelay (Delay.zero s.cfg.biquadForm) (setIndex 0#32 (setPhase .filt s))

/-- To `P_NARROW(I = 0..LEN)`. -/
def enterNarrow (s : State) : State := setIndex 0#32 (setPhase .narrow s)

/-- After the equalizer sequence, or where it is disabled: `SYNTH` goes to the resonator if it is enabled (rule R200). -/
def leaveEqualizer (s : State) : State :=
  if s.seq.opc = 8#4 ∧ resEn s.par = true then enterDesign (setStage .res s) else complete s

/-- After `P_GEN` (rule R200). -/
def leaveGen (s : State) : State :=
  if s.seq.opc = 8#4 ∧ eqEn s.par = true then enterDesign (setBand 0#4 (setStage .eq s)) else leaveEqualizer s

/-- After `P_DESIGN` (rule R200): the two designer commands are complete, every other command filters next. -/
def leaveDesign (s : State) : State :=
  if s.seq.opc = 2#4 ∨ s.seq.opc = 3#4 then complete s else enterFilt s

/-- After `P_FILT` (rule R200). -/
def leaveFilt (s : State) : State :=
  if inEqualizer s.seq = true then enterNarrow s else complete s

/-- After `P_NARROW` (rule R200): the next band, or the end of the sequence. -/
def leaveNarrow (s : State) : State :=
  if inEqualizer s.seq = true then
    (if s.seq.k.toNat < 9 then enterDesign (setBand (s.seq.k + 1#4) s) else leaveEqualizer s)
  else complete s

/-- `I` goes up by one (rule R36). -/
def bumpIndex (s : State) : State := setIndex (s.seq.i + 1#32) s

/-- One turn of `P_GEN`: the next sample, or the end of the loop with `LEN <- N`. -/
def stepGen (s : State) : State :=
  if s.seq.i.toNat < genLengthD s.par then
    bumpIndex (storeEntry s.seq.i.toNat (genSample s.cfg s.par s.seq.i.toNat) s)
  else leaveGen (storeLen (genLengthD s.par) s)

/-- The one turn of `P_DESIGN`: the band's set for `DSGN_EQ` and in the equalizer sequence, else the resonator set. -/
def stepDesign (s : State) : State :=
  if s.seq.opc = 3#4 ∨ inEqualizer s.seq = true then leaveDesign (designBandStage s.seq.k s)
  else leaveDesign (designResStage s)

/-- One turn of `P_FILT`: the next sample (rule R152), or the end of the loop. -/
def stepFilt (s : State) : State :=
  if s.seq.i.toNat < s.work.len.toNat then
    let r := filterStep s.work.coef s.delay (readEntry s.work s.seq.i.toNat)
    bumpIndex (setDelay r.2 (storeEntry s.seq.i.toNat r.1 s))
  else leaveFilt s

/-- One turn of `P_NARROW`: the next entry (rule R176), or the end of the loop. -/
def stepNarrow (s : State) : State :=
  if s.seq.i.toNat < s.work.len.toNat then
    bumpIndex
      (storeEntry s.seq.i.toNat (narrowStep s.cfg.narrowMode (readEntry s.work s.seq.i.toNat)) s)
  else leaveNarrow s

/-- One micro-step of the sequencer (rule R200); idle, it does nothing (rule R226). -/
def sequencerStep (s : State) : State :=
  match s.seq.phase with
  | .idle => s
  | .gen => stepGen s
  | .design => stepDesign s
  | .filt => stepFilt s
  | .narrow => stepNarrow s

/-- `n` micro-steps. -/
def sequencerRun : Nat → State → State
  | 0, s => s
  | n + 1, s => sequencerRun n (sequencerStep s)

end Sys2Proof.Machine
end

