-- ==== Sys2Proof/Machine/Port.lean ====
section
/-! DEFINITION. The host port (20_memory.md rules R60 to R64, 30_encoding.md rule R81): what one transaction does, idle and
while a command runs (70_reset_and_hazards.md rules R238, R239). -/

namespace Sys2Proof.Machine

/-- The spaces by their code (rule R60). -/
inductive Space where
  | reg
  | buf
  | out
  | reserved
  deriving DecidableEq, Repr

/-- The space of a code (rule R60). -/
def spaceOf (c : BitVec 2) : Space :=
  match c.toNat with
  | 0 => .reg
  | 1 => .buf
  | 2 => .out
  | _ => .reserved

/-- `BUF[i]` as the host finds it while the block is idle: an entry nothing has written is a free value (rule R38). -/
def hostEntry (s : State) (i : Nat) : W :=
  (Memory.read s.buf i).getD (.pat (Config.freeWord s.draws))

/-- `MemRead(BUF, i)` (rules R62, R239). -/
def bufRead (s : State) (i : Nat) : BitVec 64 :=
  if i < s.cfg.bufDepth then
    (if s.status.busy = true then Config.freeWord s.draws else bitsOf s.draws (hostEntry s i))
  else 0#64

/-- `MemRead(OUT, i)` (rules R63, R211, R239): `zext_64` of a binary32 pattern in every case (log 8). -/
def outRead (s : State) (i : Nat) : BitVec 64 :=
  if i < s.cfg.bufDepth then
    (if s.status.busy = true then ((Config.freeWord s.draws).setWidth 32).setWidth 64
     else (sampleBitsOf s.draws (narrow s.cfg.narrowMode (hostEntry s i))).setWidth 64)
  else 0#64

/-- The data a read transaction returns (rules R60 to R64). -/
def readData (s : State) (t : Transaction) : BitVec 64 :=
  match spaceOf t.space with
  | .reg => regRead s t.addr.toNat
  | .buf => bufRead s t.addr.toNat
  | .out => outRead s t.addr.toNat
  | .reserved => 0#64

/-- A read transaction: it changes no state of the block (rule R68); the model notes the data and counts the draw. -/
def hostRead (t : Transaction) (s : State) : State :=
  { s with rdata := readData s t, draws := s.draws + 1 }

/-- A write transaction while the block is idle, other than to `CMD` (rules R61 to R63). -/
def hostStore (t : Transaction) (s : State) : State :=
  match spaceOf t.space with
  | .reg =>
    match regAt t.addr.toNat with
    | none => s
    | some r => regStore t.wdata s r
  | .buf =>
    if t.addr.toNat < s.cfg.bufDepth then
      { s with buf := Memory.write s.buf t.addr.toNat (.pat t.wdata) }
    else s
  | .out => s
  | .reserved => s

/-- Is the transaction a write to `CMD` (rule R22)? -/
def isCommand (t : Transaction) : Bool :=
  t.we && decide (spaceOf t.space = .reg) && decide (t.addr.toNat = 0)

/-- The command word of a write to `CMD`: the low 32 bits (rules R22, R80). -/
def commandWord (t : Transaction) : BitVec 32 := t.wdata.setWidth 32

/-- A command word presented while idle (rules R83, R234): illegal, rejected; legal, run. With `overlap` an accepted
command still runs after this step; without, its whole run is this step (rule R236, log 7). -/
def presentWord (c : BitVec 32) (overlap : Bool) (s : State) : Host.Outcome State Fault Refusal :=
  match decode c with
  | .error _ => .next (reject .illegalCmd s)
  | .ok i => if overlap then .next (startCommand i s) else exec i s

/-- One transaction (rule R64). While a command runs every write is dropped (rule R238). -/
def hostAccess (t : Transaction) (overlap : Bool) (s : State) : Host.Outcome State Fault Refusal :=
  if t.we = false then .next (hostRead t s)
  else if s.status.busy = true then .next s
  else if isCommand t = true then presentWord (commandWord t) overlap s
  else .next (hostStore t s)

/-- The read of `STATUS` (rule R87). -/
def statusRead : Transaction where
  space := 0#2
  addr := 1#32
  we := false
  wdata := 0#64

/-- One poll of `wait` (rule R88): a read of `STATUS`. While bit 0 of the word read is 1 the sequencer takes a turn and the
host is still waiting (log 23); when it is 0 the wait is over and that word is its result. -/
def hostPoll (s : State) : State :=
  if (readData s statusRead).getLsbD 0 = true then
    let t := sequencerStep (hostRead statusRead s)
    { t with inputs := .wait :: t.inputs }
  else hostRead statusRead s

/-- One event of the input list. -/
def hostEvent (e : HostEvent) (s : State) : Host.Outcome State Fault Refusal :=
  match e with
  | .access t overlap => hostAccess t overlap s
  | .sequencer => .next (sequencerStep s)
  | .reset => .next (resetState s)
  | .wait => .next (hostPoll s)

/-- The write to `CMD` that presents a command word (rule R87). -/
def commandWrite (c : BitVec 32) : Transaction where
  space := 0#2
  addr := 0#32
  we := true
  wdata := c.setWidth 64

end Sys2Proof.Machine
end

