-- ==== Sys2Proof/Machine/Step.lean ====
section
/-! DEFINITION. One step of the machine. The block fetches nothing (10_state.md rule R35); what happens next is the first
event of the input list, and with no event left a running command goes on (70_reset_and_hazards.md rule R237) and an
idle block changes nothing (rules R72, R226). -/

namespace Sys2Proof.Machine

/-- One step: the oldest event of `inputs`, or a micro-step of the running command, or nothing. -/
def step (s : State) : Host.Outcome State Fault Refusal :=
  match s.inputs with
  | [] => .next (sequencerStep s)
  | e :: rest => hostEvent e { s with inputs := rest }

/-- `s` with the write to `CMD` of the table's instruction as its next event, and idle, so that the next step runs that
instruction (log 6). -/
def State.withFetchWord (s : State) (nbits w : Nat) : State :=
  { s with
    inputs := .access (commandWrite (tableCommandWord nbits w)) false :: s.inputs
    status := if s.status.busy then Status.idle else s.status
    seq := { s.seq with phase := .idle } }

end Sys2Proof.Machine
end

