-- ==== Sys2Proof/Machine/Properties.lean ====
section
/-! DEFINITION. The named properties of `SIN`, `COS` and `POW10` that a claim may assume (00_scope.md rules R15, R16). The
machine assumes none of them. -/

namespace Sys2Proof.Machine

/-- The rational number a finite `W` value is. -/
def ratOf (v : W) : Option ℚ :=
  match unpack v with
  | .nan => none
  | .inf _ => none
  | .fin neg m => some ((if neg then -1 else 1) * (m : ℚ) / 2 ^ 1074)

/-- `SIN_ZERO`: `SIN(+0) = +0` and `SIN(-0) = -0`. -/
def SinZero (f : Functions) : Prop :=
  f.sin (.pat 0x0000000000000000#64) = .pat 0x0000000000000000#64 ∧
    f.sin (.pat 0x8000000000000000#64) = .pat 0x8000000000000000#64

/-- `COS_ZERO`: `COS(+0) = COS(-0) = 1`. -/
def CosZero (f : Functions) : Prop :=
  f.cos (.pat 0x0000000000000000#64) = wOne ∧ f.cos (.pat 0x8000000000000000#64) = wOne

/-- `TRIG_NONFINITE`: `SIN` and `COS` of a NaN or an infinity are NaN. -/
def TrigNonfinite (f : Functions) : Prop :=
  ∀ v : W, ratOf v = none → isNaN (f.sin v) = true ∧ isNaN (f.cos v) = true

/-- `TRIG_BOUND`: of a finite operand, both lie in `[-1, 1]`. -/
def TrigBound (f : Functions) : Prop :=
  ∀ v : W, ratOf v ≠ none →
    (∃ r, ratOf (f.sin v) = some r ∧ -1 ≤ r ∧ r ≤ 1) ∧ (∃ r, ratOf (f.cos v) = some r ∧ -1 ≤ r ∧ r ≤ 1)

/-- `TRIG_ACC` with the parameter `TRIG_EPS`. -/
def TrigAcc (f : Functions) (eps : ℝ) : Prop :=
  ∀ (v : W) (x : ℚ), ratOf v = some x →
    (∃ r : ℚ, ratOf (f.sin v) = some r ∧ |(r : ℝ) - Real.sin (x : ℝ)| ≤ eps) ∧
      (∃ r : ℚ, ratOf (f.cos v) = some r ∧ |(r : ℝ) - Real.cos (x : ℝ)| ≤ eps)

/-- `POW10_ZERO`: `POW10(+0) = POW10(-0) = 1`. -/
def Pow10Zero (f : Functions) : Prop :=
  f.pow10 (.pat 0x0000000000000000#64) = wOne ∧ f.pow10 (.pat 0x8000000000000000#64) = wOne

/-- `POW10_SPECIAL`: NaN of a NaN, `+Inf` of `+Inf`, `+0` of `-Inf`. -/
def Pow10Special (f : Functions) : Prop :=
  (∀ v : W, isNaN v = true → isNaN (f.pow10 v) = true) ∧
    f.pow10 (.pat 0x7FF0000000000000#64) = .pat 0x7FF0000000000000#64 ∧
    f.pow10 (.pat 0xFFF0000000000000#64) = W.zero

/-- `POW10_POS`: of a finite operand, at least `+0` and not a NaN. The comparison is read as the numeric one, under which
`-0` is not below `+0`, as in rule R206 (DEDUCED, log 24). -/
def Pow10Pos (f : Functions) : Prop :=
  ∀ v : W, ratOf v ≠ none → isNaN (f.pow10 v) = false ∧ isNegative (f.pow10 v) = false

/-- `POW10_ACC` with the parameter `POW_EPS`. -/
def Pow10Acc (f : Functions) (eps : ℝ) : Prop :=
  ∀ (v : W) (x : ℚ), ratOf v = some x → |x| ≤ 300 →
    ∃ r : ℚ, ratOf (f.pow10 v) = some r ∧ |(r : ℝ) - (10 : ℝ) ^ (x : ℝ)| ≤ eps * (10 : ℝ) ^ (x : ℝ)

end Sys2Proof.Machine
end

