-- ==== Sys2Proof/Machine/Cascade.lean ====
section
/-! DEFINITION. The equalizer as a function on sample lists, pass by pass (45_cascaded_biquad_chain.md rule R175), and the
sample-by-sample cascade of ten sections that rule R179 says computes the same. The machine is pass-by-pass; these are
for statements. -/

namespace Sys2Proof.Machine

/-- One section of the chain on a sample list: a whole pass, then the narrowing (rules R175, R176). -/
def sectionPass (form : BiquadForm) (mode : NarrowMode) (c : Coef) (xs : List W) : List W :=
  (filterPass form c xs).map (narrowStep mode)

/-- The chain on a sample list, section after section (rule R175). -/
def chainPass (form : BiquadForm) (mode : NarrowMode) : List Coef → List W → List W
  | [], xs => xs
  | c :: cs, xs => chainPass form mode cs (sectionPass form mode c xs)

/-- One sample through every section, each with its own delay registers, narrowed between sections (rule R179). -/
def cascadeStep (mode : NarrowMode) : List (Coef × Delay) → W → W × List (Coef × Delay)
  | [], x => (x, [])
  | (c, d) :: secs, x =>
    let (y, d') := filterStep c d x
    let (z, secs') := cascadeStep mode secs (narrowStep mode y)
    (z, (c, d') :: secs')

/-- The samples one after the other through the cascade (rule R179). -/
def cascadeRun (mode : NarrowMode) : List (Coef × Delay) → List W → List W
  | _, [] => []
  | secs, x :: xs =>
    let (z, secs') := cascadeStep mode secs x
    z :: cascadeRun mode secs' xs

/-- The cascade from zeroed delay registers (rules R178, R179). -/
def cascade (form : BiquadForm) (mode : NarrowMode) (cs : List Coef) (xs : List W) : List W :=
  cascadeRun mode (cs.map fun c => (c, Delay.zero form)) xs

end Sys2Proof.Machine
end

