-- ==== Sys2Proof/Safety.lean ====
section
/-! DEFINITION. The terms statements use: the invariant of the machine, what the host can tell of a state, the output of a
finished command, and what a command may not touch. -/

namespace Sys2Proof.Machine

/-- The memory is in its canonical form and lies inside the buffer (rules R34, R60). -/
def memoryOk (cfg : Config) (m : Memory) : Bool :=
  Memory.wf m && Memory.below cfg.bufDepth m

/-- The legal values of `STATUS` (rule R23): at most one of `BUSY`, `DONE`, `ERR`; a code exactly with `ERR`, and only the
codes 1 to 6 (rule R206). -/
def statusOk (st : Status) : Bool :=
  !(st.busy && st.done) && !(st.busy && st.err) && !(st.done && st.err) &&
    (if st.err then decide (1 ≤ st.errCode.toNat) && decide (st.errCode.toNat ≤ 6)
     else decide (st.errCode = 0#4))

/-- The delay registers are those of the form (rule R32). -/
def delayOk : BiquadForm → Delay → Bool
  | .df1, .df1 _ _ _ _ => true
  | .df2, .df2 _ _ => true
  | .tdf2, .tdf2 _ _ => true
  | .df1, .df2 _ _ => false
  | .df1, .tdf2 _ _ => false
  | .df2, .df1 _ _ _ _ => false
  | .df2, .tdf2 _ _ => false
  | .tdf2, .df1 _ _ _ _ => false
  | .tdf2, .df2 _ _ => false

/-- The phases a command goes through (rule R200), by its opcode and stage. -/
def phaseLegal (q : Sequencer) : Bool :=
  match q.opc.toNat, q.phase with
  | 1, .gen => true
  | 2, .design => true
  | 3, .design => true
  | 4, .filt => true
  | 5, .narrow => true
  | 6, .design => true
  | 6, .filt => true
  | 7, .design => true
  | 7, .filt => true
  | 7, .narrow => true
  | 8, .gen => decide (q.stage = .none)
  | 8, .design => !decide (q.stage = .none)
  | 8, .filt => !decide (q.stage = .none)
  | 8, .narrow => decide (q.stage = .eq)
  | _, _ => false

/-- The bound of the running loop (rules R36, R200): `N` in `P_GEN`, `LEN` in `P_FILT` and `P_NARROW`. -/
def loopBound (s : State) : Nat :=
  match s.seq.phase with
  | .gen => genLengthD s.par
  | .filt => s.work.len.toNat
  | .narrow => s.work.len.toNat
  | .idle => 2 ^ 32
  | .design => 2 ^ 32

/-- What holds of the sequencer and the private copy while a command runs (rules R36, R200, R209). -/
def runningOk (s : State) : Bool :=
  phaseLegal s.seq && decide (s.seq.k.toNat ≤ 9) && decide (s.seq.i.toNat ≤ loopBound s) &&
    memoryOk s.cfg s.work.buf && decide (s.work.len.toNat ≤ s.cfg.bufDepth) &&
    (if s.seq.phase = .gen then decide (genCheck s.cfg s.par = none) else true)

/-- The invariant of the machine: a legal configuration (rule R6), a canonical buffer inside its depth (R34), `LEN` at
most `BUF_DEPTH` (R27), a legal `STATUS` (R23), `PHASE = IDLE` exactly when `BUSY = 0` (R36), the delay registers of
the form (R32), and a legal run in progress (R200). -/
structure State.Inv (s : State) : Prop where
  cfg : s.cfg.wf = true
  buf : memoryOk s.cfg s.buf = true
  len : s.len.toNat ≤ s.cfg.bufDepth
  status : statusOk s.status = true
  phase : s.seq.phase = .idle ↔ s.status.busy = false
  delay : delayOk s.cfg.biquadForm s.delay = true
  running : s.status.busy = true → runningOk s = true

/-- `STATUS` after a completed command: `DONE = 1`, the rest zero (rule R23). -/
def statusDone : Status where
  busy := false
  done := true
  err := false
  errCode := 0#4

/-- What a command leaves alone besides its own results (rule R37): the configuration, every parameter register and the
gain file, and the model's inputs and last read data. -/
def Untouched (s t : State) : Prop :=
  t.cfg = s.cfg ∧ t.par = s.par ∧ t.inputs = s.inputs ∧ t.rdata = s.rdata

/-- The buffer after a command that wrote the list `ys` over its first entries and nothing else (rule R71). -/
def BufHolds (m m' : Memory) (ys : List W) : Prop :=
  (∀ j, j < ys.length → Memory.read m' j = ys[j]?) ∧
    ∀ j, ys.length ≤ j → Memory.read m' j = Memory.read m j

/-- `xs` is the input sequence a command finds in `BUF[0..LEN-1]` (rules R71, R38): every written entry as it stands, a
value for every other. -/
def InputOf (s : State) (xs : List W) : Prop :=
  xs.length = s.len.toNat ∧
    ∀ j v, j < s.len.toNat → Memory.read s.buf j = some v → xs[j]? = some v

/-- `BUF[0..LEN-1]` after a command as the signal `y`, and everything beyond as before. -/
def BufSignal (s t : State) (y : Nat → W) : Prop :=
  (∀ j, j < s.len.toNat → Memory.read t.buf j = some (y j)) ∧
    ∀ j, s.len.toNat ≤ j → Memory.read t.buf j = Memory.read s.buf j

/-- The signal `x` is the input a command finds in `BUF[0..LEN-1]`: every written entry as it stands, any value where
nothing has been written (rule R38). -/
def InputSignal (s : State) (x : Nat → W) : Prop :=
  ∀ j v, j < s.len.toNat → Memory.read s.buf j = some v → x j = v

/-- What a host read of a register returns after a host wrote `v` to it, idle before the write (rules R22 to R33). -/
def storedReading (s : State) (v : BitVec 64) : RegName → BitVec 64
  | .cmd => 0#64
  | .status => regReadIdle s .status
  | .ctrl => (v.setWidth 8).setWidth 64
  | .rate => (v.setWidth 32).setWidth 64
  | .len => if (v.setWidth 32).toNat ≤ s.cfg.bufDepth then (v.setWidth 32).setWidth 64 else s.len.setWidth 64
  | .depth => BitVec.ofNat 64 s.cfg.bufDepth
  | .freq => v
  | .amp => v
  | .dur => v
  | .cutoff => v
  | .resq => v
  | .gain _ => v
  | .coef _ => v
  | .fc k => fcBits k.val

/-- A signal's value `d` samples before index `j`, `+0` before the first sample (rule R32). -/
def delayed (x : Nat → W) (j d : Nat) : W := if j < d then W.zero else x (j - d)

/-- A magnitude the format with `prec` significant bits and least unit `2^low` has (rules R9, R10). -/
def Representable (prec low m : Nat) : Prop :=
  ∃ k t, k < 2 ^ prec ∧ low ≤ t ∧ m = k * 2 ^ t

/-- `v` is `fl(e)` (rule R11) for the exact value `e` of sign `neg` and magnitude `p / q` units of `2^(-1074)`: from halfway
between the largest finite `W` value and `2^1024` on, the infinity of that sign; below, the nearest magnitude `W` has,
and of two equally near ones the one whose last fraction bit is 0. -/
def RoundsTo (neg : Bool) (p q : Nat) (v : W) : Prop :=
  ((2 ^ 2098 - 2 ^ 2044) * q ≤ p → unpack v = .inf neg) ∧
    (p < (2 ^ 2098 - 2 ^ 2044) * q →
      ∃ m b, v = .pat b ∧ unpack v = .fin neg m ∧ Representable 53 0 m ∧
        ∀ z, Representable 53 0 z →
          |(m * q : Int) - (p : Int)| ≤ |(z * q : Int) - (p : Int)| ∧
            (|(m * q : Int) - (p : Int)| = |(z * q : Int) - (p : Int)| → z ≠ m → b.getLsbD 0 = false))

/-- The output of the block (rule R65): the rate and the narrowed samples. -/
def outputOf (s : State) : BitVec 32 × List S :=
  (s.par.rate,
    (List.range s.len.toNat).map fun i => narrow s.cfg.narrowMode (hostEntry { s with draws := s.draws + i } i))

/-- The commands presented one after the other, each running to completion, with no host write between them (rules
R171, R190, R202). -/
def execAll : List Instr → State → Host.Outcome State Fault Refusal
  | [], s => .next s
  | i :: is, s =>
    match exec i s with
    | .next t => execAll is t
    | .fault r => .fault r
    | .refused r => .refused r

/-- `n` steps of the machine. -/
def stepRun : Nat → State → Host.Outcome State Fault Refusal
  | 0, s => .next s
  | n + 1, s =>
    match step s with
    | .next t => stepRun n t
    | .fault r => .fault r
    | .refused r => .refused r

/-- The states a run reaches from a start state: steps of the machine, and host events placed at any time. -/
inductive Reachable (start : State) : State → Prop where
  | start : Reachable start start
  | placed (s : State) (es : List HostEvent) : Reachable start s → Reachable start { s with inputs := es }
  | stepped (s t : State) : Reachable start s → step s = .next t → Reachable start t

end Sys2Proof.Machine
end

