-- ==== Sys2Proof/Certificates/Slice0/Obligations.lean ====
section
/-! DEFINITION. The statements for the provers, one `def Obligations.<Name> : Prop` each; OBLIGATIONS.json lists them. -/

open Sys2Proof Sys2Proof.Machine

/-! ## Encoding (30_encoding.md) -/

/-- Rules R83, R84: a word decodes to `i` exactly when `i` is well formed and the word is `i`'s encoding, so the decoder
reads every encoding back, accepts nothing else, and no word has two meanings. -/
def Obligations.DecodeAcceptsExactlyTheEncodings : Prop :=
  ∀ (c : BitVec 32) (i : Instr), decode c = .ok i ↔ (i.wf = true ∧ encode i = c)

/-- Rule R85: the illegal words are `OPC = 0`, `OPC` from 9 to 15, a non-zero bit in 31:8, `K ≠ 0` with `OPC ≠ 3`, and `K`
from 10 to 15 with `OPC = 3`; no others. -/
def Obligations.IllegalWordsAreTheReservedEncodings : Prop :=
  ∀ c : BitVec 32,
    (∃ e, decode c = .error e) ↔
      (c.toNat % 16 = 0 ∨ 9 ≤ c.toNat % 16 ∨ 256 ≤ c.toNat ∨
        (c.toNat / 16 % 16 ≠ 0 ∧ c.toNat % 16 ≠ 3) ∨ (10 ≤ c.toNat / 16 % 16 ∧ c.toNat % 16 = 3))

/-- Words written out from the fields of rule R80 and the table of rule R84 decode to their commands. -/
def Obligations.WordsOfTheTableDecode : Prop :=
  decode 0b00000000000000000000000000000001#32 = .ok .gen ∧
    decode 0b00000000000000000000000000000010#32 = .ok .dsgnRes ∧
    decode 0b00000000000000000000000000000011#32 = .ok (.dsgnEq 0#4) ∧
    decode 0b00000000000000000000000010010011#32 = .ok (.dsgnEq 9#4) ∧
    decode 0b00000000000000000000000000000100#32 = .ok .filt ∧
    decode 0b00000000000000000000000000000101#32 = .ok .narrow ∧
    decode 0b00000000000000000000000000000110#32 = .ok .res ∧
    decode 0b00000000000000000000000000000111#32 = .ok .equalize ∧
    decode 0b00000000000000000000000000001000#32 = .ok .synth

/-! ## Steps, reset and the invariant -/

/-- Rules R22, R80, R234: a write to `CMD` while idle whose low 32 bits decode to `i` is, in one step, `exec i` on the
state with the event taken from the input list. The choice of one step for the whole run is the model's (log 7),
which rule R236 allows. -/
def Obligations.StepRunsTheDecodedCommand : Prop :=
  ∀ (s : State) (t : Transaction) (rest : List HostEvent) (i : Instr),
    s.inputs = .access t false :: rest → t.we = true → t.space = 0#2 → t.addr = 0#32 →
    s.status.busy = false → decode (t.wdata.setWidth 32) = .ok i →
    step s = exec i { s with inputs := rest }

/-- Rule R212 (with R85, R206, R209): a word presented while idle that is illegal, or a legal one that fails a check, sets
`STATUS` to `BUSY = 0`, `DONE = 0`, `ERR = 1` and the code, and changes nothing else (the event is taken from the model's
input list). -/
def Obligations.RejectionChangesOnlyStatus : Prop :=
  ∀ (s : State) (t : Transaction) (overlap : Bool) (rest : List HostEvent),
    s.inputs = .access t overlap :: rest → t.we = true → t.space = 0#2 → t.addr = 0#32 → s.status.busy = false →
    (∀ e, decode (t.wdata.setWidth 32) = .error e →
      step s = .next { s with
        inputs := rest
        status := { busy := false, done := false, err := true, errCode := 6#4 } }) ∧
      (∀ i e, decode (t.wdata.setWidth 32) = .ok i → argCheck s.cfg s.par i = some e →
        step s = .next { s with
          inputs := rest
          status := { busy := false, done := false, err := true, errCode := codeOf e } })

/-- Rule R213: a legal word whose checks pass, still running after its step (log 7), sets `BUSY` alone in `STATUS`, sends
the sequencer to the command's first phase (R200), and leaves the rest of what the host can see as it was. That `K` takes
the word's field K is the model's (DEDUCED, log 11). -/
def Obligations.AcceptedCommandIsBusy : Prop :=
  ∀ (s : State) (t : Transaction) (rest : List HostEvent) (i : Instr),
    s.inputs = .access t true :: rest → t.we = true → t.space = 0#2 → t.addr = 0#32 →
    s.status.busy = false → decode (t.wdata.setWidth 32) = .ok i → argCheck s.cfg s.par i = none →
    ∃ u, step s = .next u ∧
      u.status = { busy := true, done := false, err := false, errCode := 0#4 } ∧
      u.seq.phase = (if i = .gen ∨ i = .synth then .gen else if i = .filt then .filt
        else if i = .narrow then .narrow else .design) ∧
      u.seq.opc = i.opcode ∧ u.seq.k = i.operand ∧
      u.coef = s.coef ∧ u.buf = s.buf ∧ u.len = s.len ∧ u.par = s.par ∧ u.cfg = s.cfg ∧
      u.inputs = rest ∧ u.rdata = s.rdata

/-- Rule R39: what reset leaves, for the values the spec gives. The buffer lists no entry: its contents are unspecified. -/
def Obligations.ResetLeavesTheResetValues : Prop :=
  ∀ cfg : Config,
    statusWord (State.resetOf cfg).status = 0#64 ∧
      (State.resetOf cfg).par.ctrl = 0#8 ∧
      (State.resetOf cfg).par.rate = cfg.defaultRate ∧
      State.reset.par.rate = 44100#32 ∧
      (State.resetOf cfg).len = 0#32 ∧
      (State.resetOf cfg).par.freq = 0#64 ∧ (State.resetOf cfg).par.amp = 0#64 ∧
      (State.resetOf cfg).par.dur = 0#64 ∧ (State.resetOf cfg).par.cutoff = 0#64 ∧
      (State.resetOf cfg).par.resq = 0#64 ∧
      (∀ k : Fin 10, (State.resetOf cfg).par.gain[k] = 0#64) ∧
      (∀ c : CoefName, coefGet (State.resetOf cfg).coef c = .pat 0#64) ∧
      (∀ i, Memory.read (State.resetOf cfg).buf i = none) ∧
      (State.resetOf cfg).delay = Delay.zero cfg.biquadForm ∧
      (State.resetOf cfg).seq.phase = .idle ∧
      regRead (State.resetOf cfg) 0x05 = BitVec.ofNat 64 cfg.bufDepth ∧
      ∀ k : Fin 10, W.pat (regRead (State.resetOf cfg) (0x30 + k.val)) = fcW (BitVec.ofNat 4 k.val)

/-- Rules R230, R231: asserting reset in any state, a running command included, gives the reset state of the instance; the
model's own fields (log 10) are carried over. -/
def Obligations.ResetAbandonsTheRun : Prop :=
  ∀ (s : State) (rest : List HostEvent), s.inputs = .reset :: rest →
    ∃ t, step s = .next t ∧
      t = { State.resetOf s.cfg with inputs := rest, draws := s.draws, rdata := s.rdata }

/-- The state after reset has the invariant of the machine. -/
def Obligations.ResetHasTheInvariant : Prop :=
  ∀ cfg : Config, cfg.wf = true → (State.resetOf cfg).Inv

/-- Every step keeps the invariant: the canonical buffer inside its depth (R34), `LEN ≤ BUF_DEPTH` (R27), a legal `STATUS`
(R23), `PHASE = IDLE` exactly when `BUSY = 0` (R36), the delay registers of the form (R32), and a legal run (R200). -/
def Obligations.EveryStepKeepsTheInvariant : Prop :=
  ∀ s t : State, s.Inv → step s = .next t → t.Inv

/-- Every state that steps and host events reach from the reset state of a legal instance has the invariant. -/
def Obligations.ReachableStatesHaveTheInvariant : Prop :=
  ∀ (cfg : Config) (s : State), cfg.wf = true → Reachable (State.resetOf cfg) s → s.Inv

/-! ## The host port (20_memory.md, 70_reset_and_hazards.md) -/

/-- Rule R238: while a command runs a host write to any location changes nothing. -/
def Obligations.WritesWhileBusyAreDropped : Prop :=
  ∀ (s : State) (t : Transaction) (overlap : Bool),
    s.status.busy = true → t.we = true → hostAccess t overlap s = .next s

/-- Rule R239, the exact reads: while a command runs `STATUS` reads `BUSY` alone, and every register no command writes
reads its value, in particular zero at an unmapped number. -/
def Obligations.ReadsWhileBusyOfStableRegisters : Prop :=
  ∀ (s : State) (t : Transaction) (overlap : Bool),
    s.Inv → s.status.busy = true → t.we = false → t.space = 0#2 →
    ∃ u, hostAccess t overlap s = .next u ∧
      (regAt t.addr.toNat = some .status → u.rdata = 1#64) ∧
      (regAt t.addr.toNat = none → u.rdata = 0#64) ∧
      ∀ r, regAt t.addr.toNat = some r → r ≠ .len → (∀ c, r ≠ .coef c) → u.rdata = regReadIdle s r

/-- Rule R68: a read changes no state of the block. Only the model's own `rdata` and `draws` change (log 3, log 15). -/
def Obligations.ReadsChangeNothing : Prop :=
  ∀ (s : State) (t : Transaction) (overlap : Bool), t.we = false →
    ∃ u, hostAccess t overlap s = .next u ∧ u = { s with rdata := u.rdata, draws := u.draws }

/-- Rule R62: while idle and below `BUF_DEPTH`, a `BUF` read returns the pattern of the entry (some NaN pattern for a NaN a
command computed), a write sets the entry, whatever the pattern, reads back as written, and leaves every other entry and
`LEN` alone; at or above `BUF_DEPTH` a read returns zero and a write is ignored. -/
def Obligations.BufWriteReadsBack : Prop :=
  ∀ (s : State) (t r : Transaction) (o p : Bool),
    s.status.busy = false → t.we = true → t.space = 1#2 → r.we = false → r.space = 1#2 → r.addr = t.addr →
    ∃ q u v, hostAccess r p s = .next q ∧ hostAccess t o s = .next u ∧ hostAccess r p u = .next v ∧
      (if t.addr.toNat < s.cfg.bufDepth then
        (∀ b, Memory.read s.buf t.addr.toNat = some (.pat b) → q.rdata = b) ∧
          (Memory.read s.buf t.addr.toNat = some .nan → isNaN (.pat q.rdata) = true) ∧
          Memory.read u.buf t.addr.toNat = some (.pat t.wdata) ∧ v.rdata = t.wdata ∧
          (∀ i, i ≠ t.addr.toNat → Memory.read u.buf i = Memory.read s.buf i) ∧ u = { s with buf := u.buf }
      else q.rdata = 0#64 ∧ v.rdata = 0#64 ∧ u = s)

/-- Rule R63: while idle, an `OUT` read below `BUF_DEPTH` returns the zero-extended binary32 pattern of the narrowed entry
(some NaN pattern where that is a NaN), zero at or above `BUF_DEPTH`; the read leaves the buffer as it is; a write to
`OUT` is ignored. -/
def Obligations.OutReadsTheNarrowedEntry : Prop :=
  ∀ (s : State) (t : Transaction) (o : Bool),
    s.status.busy = false → t.space = 2#2 →
    (t.we = true → hostAccess t o s = .next s) ∧
      (t.we = false → s.cfg.bufDepth ≤ t.addr.toNat →
        ∃ u, hostAccess t o s = .next u ∧ u.rdata = 0#64 ∧ u.buf = s.buf) ∧
      (t.we = false → t.addr.toNat < s.cfg.bufDepth →
        ∀ v, Memory.read s.buf t.addr.toNat = some v →
          ∃ u b, hostAccess t o s = .next u ∧ u.rdata = BitVec.setWidth 64 (b : BitVec 32) ∧ u.buf = s.buf ∧
            (narrow s.cfg.narrowMode v = .pat b ∨
              (narrow s.cfg.narrowMode v = .nan ∧ unpackSample (.pat b) = .nan)))

/-- Rules R22 to R33, while idle. What a host read of each register returns: `CMD` zero; `STATUS` with `DONE` in bit 1, `ERR`
in bit 2, `ERRCODE` in bits 7:4 and zero elsewhere; the narrower registers zero-extended; a coefficient its pattern, or
some NaN pattern for a NaN a command computed. What every register other than `CMD` reads after a host wrote it, that
every other register reads as before, and that nothing but a register changes. -/
def Obligations.RegisterReadsAndWritesWhileIdle : Prop :=
  (∀ (s : State) (t : Transaction) (o : Bool), s.status.busy = false → t.we = false → t.space = 0#2 →
      ∃ u, hostAccess t o s = .next u ∧ u.rdata = regRead s t.addr.toNat ∧
        (t.addr.toNat = 0x00 → u.rdata = 0#64) ∧
        (t.addr.toNat = 0x01 →
          u.rdata.toNat = 2 * s.status.done.toNat + 4 * s.status.err.toNat + 16 * s.status.errCode.toNat) ∧
        (t.addr.toNat = 0x02 → u.rdata.toNat = s.par.ctrl.toNat) ∧
        (t.addr.toNat = 0x03 → u.rdata.toNat = s.par.rate.toNat) ∧
        (t.addr.toNat = 0x04 → u.rdata.toNat = s.len.toNat) ∧
        (t.addr.toNat = 0x05 → u.rdata = BitVec.ofNat 64 s.cfg.bufDepth) ∧
        (t.addr.toNat = 0x08 → u.rdata = s.par.freq) ∧ (t.addr.toNat = 0x09 → u.rdata = s.par.amp) ∧
        (t.addr.toNat = 0x0A → u.rdata = s.par.dur) ∧ (t.addr.toNat = 0x0B → u.rdata = s.par.cutoff) ∧
        (t.addr.toNat = 0x0C → u.rdata = s.par.resq) ∧
        (∀ k : Fin 10, t.addr.toNat = 0x10 + k.val → u.rdata = s.par.gain[k]) ∧
        ∀ c w, (t.addr.toNat, w) ∈ [(0x20, s.coef.b0), (0x21, s.coef.b1), (0x22, s.coef.b2), (0x23, s.coef.a0),
            (0x24, s.coef.a1), (0x25, s.coef.a2)] →
          (w = .pat c → u.rdata = c) ∧ (w = .nan → isNaN (.pat u.rdata) = true)) ∧
    ∀ (s : State) (t : Transaction) (o : Bool) (r : RegName),
      s.status.busy = false → t.we = true → t.space = 0#2 → regAt t.addr.toNat = some r → r ≠ .cmd →
      ∃ u, hostAccess t o s = .next u ∧
        regRead u (regNumber r) = storedReading s t.wdata r ∧
        (∀ q, q ≠ r → regRead u (regNumber q) = regRead s (regNumber q)) ∧
        u.status = s.status ∧ u.buf = s.buf ∧ u.delay = s.delay ∧ u.seq = s.seq ∧ u.cfg = s.cfg

/-- Rules R29, R61: exactly the register numbers R29 lists, and those above `0xFF`, hold no state: they read zero and
ignore writes. -/
def Obligations.UnmappedRegistersReadZero : Prop :=
  (∀ n, regAt n = none ↔
      (n = 0x06 ∨ n = 0x07 ∨ (0x0D ≤ n ∧ n ≤ 0x0F) ∨ (0x1A ≤ n ∧ n ≤ 0x1F) ∨ (0x26 ≤ n ∧ n ≤ 0x2F) ∨ 0x3A ≤ n)) ∧
    (∀ r, regAt (regNumber r) = some r) ∧
    ∀ (s : State) (t : Transaction) (o : Bool), t.space = 0#2 → regAt t.addr.toNat = none →
      (t.we = true → hostAccess t o s = .next s) ∧
        (t.we = false → ∃ u, hostAccess t o s = .next u ∧ u.rdata = 0#64)

/-- Rule R33: the table holds the ten integers of the document, exactly; a host reads them at `0x30 + k`, and a host write
there changes nothing. -/
def Obligations.CentreFrequencyTable : Prop :=
  [fcW 0#4, fcW 1#4, fcW 2#4, fcW 3#4, fcW 4#4, fcW 5#4, fcW 6#4, fcW 7#4, fcW 8#4, fcW 9#4] =
      [toW 60, toW 170, toW 310, toW 600, toW 1000, toW 3000, toW 6000, toW 12000, toW 14000, toW 16000] ∧
    (∀ (s : State) (k : Fin 10), W.pat (regRead s (0x30 + k.val)) = fcW (BitVec.ofNat 4 k.val)) ∧
    ∀ (s : State) (t : Transaction) (o : Bool) (k : Fin 10),
      t.we = true → t.space = 0#2 → t.addr.toNat = 0x30 + k.val → hostAccess t o s = .next s

/-- Rules R72 (item 2), R226: an idle block changes nothing unless the host writes or resets it; with no event the state
stays exactly as it is. A host read, and the one poll of a host that waits for `BUSY = 0`, leave all but the model's own
`rdata` and `draws` (log 3, log 15). -/
def Obligations.IdleBlockWaitsForTheHost : Prop :=
  ∀ s : State, s.Inv → s.status.busy = false →
    (s.inputs = [] → step s = .next s) ∧
      (∀ rest, s.inputs = .sequencer :: rest → step s = .next { s with inputs := rest }) ∧
      (∀ rest, s.inputs = .wait :: rest →
        ∃ u, step s = .next u ∧ u = { s with inputs := rest, rdata := u.rdata, draws := u.draws }) ∧
      (∀ t o rest, s.inputs = .access t o :: rest → t.we = false →
        ∃ u, step s = .next u ∧ u = { s with inputs := rest, rdata := u.rdata, draws := u.draws })

/-- Rule R37: a parameter register or a gain changes in a step only by a host write to that part of the `REG` space while
idle (`CTRL`, `RATE`, the five `W` registers, the gain file), or by reset; no command writes one, nor does a step that
runs a whole command. -/
def Obligations.OnlyTheHostChangesParameters : Prop :=
  ∀ s t : State, step s = .next t → t.par ≠ s.par →
    (∃ rest, s.inputs = .reset :: rest) ∨
      ∃ tr o rest, s.inputs = .access tr o :: rest ∧ tr.we = true ∧ tr.space = 0#2 ∧ s.status.busy = false ∧
        (tr.addr.toNat = 0x02 ∨ tr.addr.toNat = 0x03 ∨ (0x08 ≤ tr.addr.toNat ∧ tr.addr.toNat ≤ 0x0C) ∨
          (0x10 ≤ tr.addr.toNat ∧ tr.addr.toNat ≤ 0x19))

/-! ## Rejections (60_exceptions.md) -/

/-- Rules R206, R209, R210: `GEN` and `SYNTH` are rejected by the first failing check, in the order wave type, rate,
duration, capacity, and only `STATUS` changes. `DUR < 0` holds for `-Inf` and the negative finite values, not for `-0`,
and this is what the model's `isNegative` says. -/
def Obligations.GeneratorChecksInOrder : Prop :=
  (∀ v : W, isNegative v = true ↔ (unpack (v) = .inf true ∨ ∃ m, m ≠ 0 ∧ unpack (v) = .fin true m)) ∧
    ∀ (i : Instr) (s : State), (i = .gen ∨ i = .synth) → s.status.busy = false →
      (s.par.ctrl.extractLsb' 0 2 = 3#2 →
        exec i s = .next { s with status := { busy := false, done := false, err := true, errCode := 1#4 } }) ∧
        (s.par.ctrl.extractLsb' 0 2 ≠ 3#2 → s.par.rate.toInt ≤ 0 →
          exec i s = .next { s with status := { busy := false, done := false, err := true, errCode := 2#4 } }) ∧
        (s.par.ctrl.extractLsb' 0 2 ≠ 3#2 → 0 < s.par.rate.toInt →
          (unpack (.pat s.par.dur) = .inf true ∨ ∃ m, m ≠ 0 ∧ unpack (.pat s.par.dur) = .fin true m) →
          exec i s = .next { s with status := { busy := false, done := false, err := true, errCode := 3#4 } }) ∧
        (s.par.ctrl.extractLsb' 0 2 ≠ 3#2 → 0 < s.par.rate.toInt →
          ¬ (unpack (.pat s.par.dur) = .inf true ∨ ∃ m, m ≠ 0 ∧ unpack (.pat s.par.dur) = .fin true m) →
          (∀ n, floorInt (mulW (toW s.par.rate.toInt) (.pat s.par.dur)) = some n → (s.cfg.bufDepth : Int) < n) →
          exec i s = .next { s with status := { busy := false, done := false, err := true, errCode := 5#4 } })

/-- Rules R187, R210: `EQ` with fewer than ten gains is rejected with code 4; so is `SYNTH` with the equalizer enabled, once
the generator's checks pass; only `STATUS` changes. -/
def Obligations.FewerThanTenGainsAreRejected : Prop :=
  ∀ s : State, s.status.busy = false → (s.par.ctrl.extractLsb' 4 4).toNat < 10 →
    exec .equalize s =
        .next { s with status := { busy := false, done := false, err := true, errCode := 4#4 } } ∧
      (s.par.ctrl.getLsbD 2 = true → argCheck s.cfg s.par .gen = none →
        exec .synth s =
          .next { s with status := { busy := false, done := false, err := true, errCode := 4#4 } })

/-- Rules R205, R212: a command word presented while idle either completes, with `DONE` alone in `STATUS`, or is rejected with
`ERR` and nothing but `STATUS` changed. -/
def Obligations.NoPartialEffects : Prop :=
  ∀ (i : Instr) (s t : State), s.status.busy = false → exec i s = .next t →
    (t.status = statusDone ∧ t.seq.phase = .idle) ∨
      (t.status.err = true ∧ t.status.busy = false ∧ t.status.done = false ∧ t = { s with status := t.status })

/-! ## The commands: what each leaves, and what it leaves alone -/

/-- Rules R101, R102, R105, and the pseudocode of R104, R116, R118: `GEN` completes whenever its checks pass; `LEN` is the
floor of `toW(RATE) (x) DUR`, entry `i` below it the sample of the selected wave at `toW(i) (/) toW(RATE)`, every other
entry and register as before. Where the pseudocode and a corner-case sentence differ (an infinite `AMP` of the Square,
`AMP = -0`, some `FREQ` at index 0) the pseudocode is the model's choice (DEDUCED, log 26, log 27, log 28). -/
def Obligations.GenWritesTheWaveform : Prop :=
  ∀ (s : State) (wave : Wave) (n : Nat),
    s.cfg.wf = true → s.status.busy = false → waveOf s.par = some wave → 0 < s.par.rate.toInt →
    isNegative (.pat s.par.dur) = false →
    floorInt (mulW (toW s.par.rate.toInt) (.pat s.par.dur)) = some (n : Int) → n ≤ s.cfg.bufDepth →
    ∃ (u : State) (time phase ramp : Nat → W),
      exec .gen s = .next u ∧ u.status = statusDone ∧ u.seq.phase = .idle ∧ u.len.toNat = n ∧
      (∀ i : Nat, time i = divW (toW (i : Int)) (toW s.par.rate.toInt) ∧
        phase i = mulW (mulW wTwoPi (.pat s.par.freq)) (time i) ∧ ramp i = mulW (.pat s.par.freq) (time i)) ∧
      (∀ i, i < n → Memory.read u.buf i = some (match wave with
        | .sine => mulW (.pat s.par.amp) (applyFn Config.sin (phase i))
        | .square => mulW (.pat s.par.amp) (signW s.cfg.signZero (applyFn Config.sin (phase i)))
        | .sawtooth =>
          mulW (.pat s.par.amp) (mulW wTwo (subW (ramp i) (floorW (addW (ramp i) wHalf)))))) ∧
      (∀ i, n ≤ i → Memory.read u.buf i = Memory.read s.buf i) ∧
      u.coef = s.coef ∧ u.delay = s.delay ∧ Untouched s u

/-- Rule R107: a zero duration, of either sign, gives an empty buffer for every wave and every positive rate; no entry is
written. -/
def Obligations.ZeroDurationGivesAnEmptyBuffer : Prop :=
  ∀ s : State, s.status.busy = false → s.par.ctrl.extractLsb' 0 2 ≠ 3#2 → 0 < s.par.rate.toInt →
    (s.par.dur = 0x0000000000000000#64 ∨ s.par.dur = 0x8000000000000000#64) →
    ∃ t, exec .gen s = .next t ∧ t.status = statusDone ∧ t.len = 0#32 ∧ t.buf = s.buf ∧ t.coef = s.coef ∧
      Untouched s t

/-- Rules R131, R132, R133: `DSGN_RES` completes in every idle state and writes the six coefficients of the recipe, none
normalised; the buffer, `LEN` and the delay registers stay. -/
def Obligations.DsgnResWritesTheResonatorSet : Prop :=
  ∀ s : State, s.status.busy = false →
    ∃ t alpha w0, exec .dsgnRes s = .next t ∧ t.status = statusDone ∧ t.seq.phase = .idle ∧
      w0 = mulW wTwoPi (divW (.pat s.par.cutoff) (divW (toW s.par.rate.toInt) wTwo)) ∧
      alpha = divW (applyFn Config.sin w0) (mulW wTwo (.pat s.par.resq)) ∧
      t.coef.a0 = addW wOne alpha ∧ t.coef.b0 = divW wOne t.coef.a0 ∧ t.coef.b2 = t.coef.b0 ∧
      t.coef.a1 = mulW wMinusTwo (applyFn Config.cos w0) ∧
      t.coef.b1 = (if s.cfg.resB1Divided = true then divW t.coef.a1 t.coef.a0 else t.coef.a1) ∧
      t.coef.a2 = subW wOne alpha ∧
      t.buf = s.buf ∧ t.len = s.len ∧ t.delay = s.delay ∧ Untouched s t

/-- Rules R136, R137: `DSGN_EQ k`, for every band 0 to 9, completes in every idle state and writes the six coefficients of
the recipe; the buffer, `LEN` and the delay registers stay. -/
def Obligations.DsgnEqWritesTheBandSet : Prop :=
  ∀ (s : State) (k : BitVec 4) (h : k.toNat < 10), s.status.busy = false →
    ∃ t a w w2 sw denom, exec (.dsgnEq k) s = .next t ∧ t.status = statusDone ∧ t.seq.phase = .idle ∧
      a = applyFn Config.pow10 (divW (.pat (s.par.gain[k.toNat])) wForty) ∧
      w = mulW wTwoPi (divW (fcW k) (divW (toW s.par.rate.toInt) wTwo)) ∧
      w2 = mulW w w ∧ sw = mulW wTwoSqrt2 w ∧ denom = addW (addW wFour sw) w2 ∧
      t.coef.b0 = divW (mulW a w2) denom ∧ t.coef.b1 = divW (mulW (mulW wTwo a) w2) denom ∧
      t.coef.b2 = t.coef.b0 ∧ t.coef.a0 = wOne ∧ t.coef.a1 = divW (mulW wTwo (subW w2 wFour)) denom ∧
      t.coef.a2 = divW (addW (subW wFour sw) w2) denom ∧
      t.buf = s.buf ∧ t.len = s.len ∧ t.delay = s.delay ∧ Untouched s t

/-- Rule R151: `FILT` completes in every idle state and replaces `BUF[0..LEN-1]` by one pass over it, in the instance's
form; `COEF`, `LEN`, the parameters and every entry at or above `LEN` stay. -/
def Obligations.FiltReplacesTheBufferByOnePass : Prop :=
  ∀ s : State, s.status.busy = false →
    ∃ t xs, exec .filt s = .next t ∧ t.status = statusDone ∧ t.seq.phase = .idle ∧ InputOf s xs ∧
      BufHolds s.buf t.buf (filterPass s.cfg.biquadForm s.coef xs) ∧
      t.coef = s.coef ∧ t.len = s.len ∧ Untouched s t

/-- Rules R152, R153: in form DF1 the buffer after `FILT` satisfies the recurrence, with past samples `+0` before index 0,
the sums in the order the rule writes them, and `A0` in no place. -/
def Obligations.FiltDf1Recurrence : Prop :=
  ∀ s : State, s.status.busy = false → s.cfg.biquadForm = .df1 →
    ∃ (t : State) (x y : Nat → W), exec .filt s = .next t ∧ InputSignal s x ∧ BufSignal s t y ∧
      ∀ j, j < s.len.toNat →
        y j = subW (subW (addW (addW (mulW s.coef.b0 (x j)) (mulW s.coef.b1 (delayed x j 1)))
          (mulW s.coef.b2 (delayed x j 2))) (mulW s.coef.a1 (delayed y j 1))) (mulW s.coef.a2 (delayed y j 2))

/-- Rule R156: in form DF2 the buffer after `FILT` satisfies the two equations over the hidden signal `w`. -/
def Obligations.FiltDf2Recurrence : Prop :=
  ∀ s : State, s.status.busy = false → s.cfg.biquadForm = .df2 →
    ∃ (t : State) (x y w : Nat → W), exec .filt s = .next t ∧ InputSignal s x ∧ BufSignal s t y ∧
      ∀ j, j < s.len.toNat →
        w j = subW (subW (x j) (mulW s.coef.a1 (delayed w j 1))) (mulW s.coef.a2 (delayed w j 2)) ∧
          y j = addW (addW (mulW s.coef.b0 (w j)) (mulW s.coef.b1 (delayed w j 1)))
            (mulW s.coef.b2 (delayed w j 2))

/-- Rule R157: in form TDF2 the buffer after `FILT` satisfies the three equations over the hidden signals `p` (`S1`) and `q`
(`S2`), which start at `+0`. -/
def Obligations.FiltTdf2Recurrence : Prop :=
  ∀ s : State, s.status.busy = false → s.cfg.biquadForm = .tdf2 →
    ∃ (t : State) (x y p q : Nat → W), exec .filt s = .next t ∧ InputSignal s x ∧ BufSignal s t y ∧
      p 0 = W.zero ∧ q 0 = W.zero ∧
      ∀ j, j < s.len.toNat →
        y j = addW (mulW s.coef.b0 (x j)) (p j) ∧
          p (j + 1) = addW (subW (mulW s.coef.b1 (x j)) (mulW s.coef.a1 (y j))) (q j) ∧
          q (j + 1) = subW (mulW s.coef.b2 (x j)) (mulW s.coef.a2 (y j))

/-- Rules R176, R177: `NARROW` completes in every idle state and replaces each entry below `LEN` by `widen(narrow(.))`; the
delay registers, `COEF`, `LEN`, the parameters and every entry at or above `LEN` stay. -/
def Obligations.NarrowNarrowsEveryEntry : Prop :=
  ∀ s : State, s.status.busy = false →
    ∃ t x, exec .narrow s = .next t ∧ t.status = statusDone ∧ t.seq.phase = .idle ∧ InputSignal s x ∧
      BufSignal s t (fun j => widen (narrow s.cfg.narrowMode (x j))) ∧
      t.coef = s.coef ∧ t.len = s.len ∧ t.delay = s.delay ∧ Untouched s t

/-- Rule R177: a second `NARROW` changes nothing in the buffer. -/
def Obligations.NarrowIsIdempotent : Prop :=
  ∀ s : State, s.status.busy = false →
    ∃ t u, exec .narrow s = .next t ∧ exec .narrow t = .next u ∧ u.buf = t.buf ∧ u.len = t.len

/-- Rules R170, R172: `RES` completes in every idle state, leaves the resonator set in `COEF`, and replaces `BUF[0..LEN-1]`
by one pass with it, not narrowed; `LEN`, the parameters and every entry at or above `LEN` stay. -/
def Obligations.ResDesignsAndFilters : Prop :=
  ∀ s : State, s.status.busy = false →
    ∃ t xs, exec .res s = .next t ∧ t.status = statusDone ∧ t.seq.phase = .idle ∧ InputOf s xs ∧
      t.coef = designRes Config.functions s.cfg.resB1Divided (.pat s.par.cutoff) (.pat s.par.resq) s.par.rate.toInt ∧
      BufHolds s.buf t.buf (filterPass s.cfg.biquadForm t.coef xs) ∧
      t.len = s.len ∧ Untouched s t

/-- Rules R186, R175, R176, R188: with a gain count of ten or more `EQ` completes in every idle state; the buffer is the ten
sections in order, each a whole pass then the narrowing; `COEF` holds band 9's set; `LEN`, the parameters and every
entry at or above `LEN` stay. -/
def Obligations.EqRunsTheTenBands : Prop :=
  ∀ s : State, s.status.busy = false → 10 ≤ (s.par.ctrl.extractLsb' 4 4).toNat →
    ∃ t xs, exec .equalize s = .next t ∧ t.status = statusDone ∧ t.seq.phase = .idle ∧ InputOf s xs ∧
      BufHolds s.buf t.buf (chainPass s.cfg.biquadForm s.cfg.narrowMode
        ([0#4, 1#4, 2#4, 3#4, 4#4, 5#4, 6#4, 7#4, 8#4, 9#4].map (bandCoef s.par)) xs) ∧
      t.coef = bandCoef s.par 9#4 ∧ t.len = s.len ∧ Untouched s t

/-- Rules R196, R197, R199: `SYNTH` completes whenever its checks pass; the buffer is the waveform, through the ten bands if
`EQ_EN`, then through the resonator pass if `RES_EN`; `COEF` holds the last set designed. The waveform is that of the
pseudocode for every `AMP` and `FREQ`, which at some corners is the model's choice (DEDUCED, log 26, log 27, log 28). -/
def Obligations.SynthRunsThePipeline : Prop :=
  ∀ (s : State) (wave : Wave) (n : Nat),
    s.cfg.wf = true → s.status.busy = false → waveOf s.par = some wave → 0 < s.par.rate.toInt →
    isNegative (.pat s.par.dur) = false →
    floorInt (mulW (toW s.par.rate.toInt) (.pat s.par.dur)) = some (n : Int) → n ≤ s.cfg.bufDepth →
    (s.par.ctrl.getLsbD 2 = true → 10 ≤ (s.par.ctrl.extractLsb' 4 4).toNat) →
    ∃ t g e r, exec .synth s = .next t ∧ t.status = statusDone ∧ t.seq.phase = .idle ∧ t.len.toNat = n ∧
      g = (List.range n).map (fun (i : Nat) =>
        waveSample Config.functions s.cfg.signZero wave (.pat s.par.freq) (.pat s.par.amp)
          (divW (toW (i : Int)) (toW s.par.rate.toInt))) ∧
      e = (if s.par.ctrl.getLsbD 2 = true then
        chainPass s.cfg.biquadForm s.cfg.narrowMode
          ([0#4, 1#4, 2#4, 3#4, 4#4, 5#4, 6#4, 7#4, 8#4, 9#4].map (bandCoef s.par)) g else g) ∧
      r = (if s.par.ctrl.getLsbD 3 = true then
        filterPass s.cfg.biquadForm (resCoef s.cfg s.par) e else e) ∧
      BufHolds s.buf t.buf r ∧ r.length = n ∧
      t.coef = (if s.par.ctrl.getLsbD 3 = true then resCoef s.cfg s.par
        else if s.par.ctrl.getLsbD 2 = true then bandCoef s.par 9#4 else s.coef) ∧
      Untouched s t

/-! ## Commands against each other -/

/-- Rule R171: `RES` and `DSGN_RES` then `FILT` end in the same `COEF`, `BUF` and `LEN`; between the two the coefficients are
designed and the buffer is not yet filtered. -/
def Obligations.ResEqualsDesignThenFilter : Prop :=
  ∀ s : State, s.status.busy = false →
    ∃ t m u, exec .res s = .next t ∧ exec .dsgnRes s = .next m ∧ exec .filt m = .next u ∧
      u.coef = t.coef ∧ u.buf = t.buf ∧ u.len = t.len ∧
      m.coef = t.coef ∧ m.buf = s.buf ∧ m.status = statusDone ∧ u.status = statusDone

/-- Rule R190: with `GAIN_CNT >= 10`, `EQ` leaves the same `BUF`, `LEN` and `COEF` as the thirty commands. -/
def Obligations.EqEqualsThirtyCommands : Prop :=
  ∀ s : State, s.status.busy = false → 10 ≤ (s.par.ctrl.extractLsb' 4 4).toNat →
    ∃ t u, exec .equalize s = .next t ∧
      execAll [.dsgnEq 0#4, .filt, .narrow, .dsgnEq 1#4, .filt, .narrow,
        .dsgnEq 2#4, .filt, .narrow, .dsgnEq 3#4, .filt, .narrow,
        .dsgnEq 4#4, .filt, .narrow, .dsgnEq 5#4, .filt, .narrow,
        .dsgnEq 6#4, .filt, .narrow, .dsgnEq 7#4, .filt, .narrow,
        .dsgnEq 8#4, .filt, .narrow, .dsgnEq 9#4, .filt, .narrow] s = .next u ∧
      u.buf = t.buf ∧ u.len = t.len ∧ u.coef = t.coef

/-- Rule R202: an accepted `SYNTH` ends in the same `LEN`, `BUF` and `COEF` as `gen`, then `eq` if `EQ_EN`, then `res` if
`RES_EN`. Where only the gain count fails, `SYNTH` changes `STATUS` alone, while `gen` then `eq` leaves the waveform and
then has `eq` rejected. -/
def Obligations.SynthEqualsItsCommands : Prop :=
  ∀ s : State, s.status.busy = false →
    (argCheck s.cfg s.par .synth = none →
      ∃ t u, exec .synth s = .next t ∧
        execAll (.gen :: ((if s.par.ctrl.getLsbD 2 = true then [.equalize] else []) ++
          (if s.par.ctrl.getLsbD 3 = true then [.res] else []))) s = .next u ∧
        u.len = t.len ∧ u.buf = t.buf ∧ u.coef = t.coef ∧ u.status = t.status) ∧
      (argCheck s.cfg s.par .gen = none → s.par.ctrl.getLsbD 2 = true → (s.par.ctrl.extractLsb' 4 4).toNat < 10 →
        ∃ t g u, exec .synth s = .next t ∧ t = { s with status := t.status } ∧ t.status = statusError .gainCount ∧
          exec .gen s = .next g ∧ g.status = statusDone ∧ exec .equalize g = .next u ∧
          u = { g with status := t.status })

/-- Rule R201: with both stages disabled `SYNTH` and `GEN` from one state end in the same `LEN`, `BUF`, `COEF` and `STATUS`,
rejections included, and neither changes `COEF`; one second at 44100 Hz gives exactly 44100 samples. -/
def Obligations.SynthWithStagesDisabledIsGen : Prop :=
  ∀ s : State, s.status.busy = false → s.par.ctrl.getLsbD 2 = false → s.par.ctrl.getLsbD 3 = false →
    ∃ t u, exec .synth s = .next t ∧ exec .gen s = .next u ∧
      u.len = t.len ∧ u.buf = t.buf ∧ u.coef = t.coef ∧ u.status = t.status ∧ t.coef = s.coef ∧
      (s.par.ctrl.extractLsb' 0 2 ≠ 3#2 → s.par.rate = 44100#32 → s.par.dur = 0x3FF0000000000000#64 →
        44100 ≤ s.cfg.bufDepth → t.status = statusDone ∧ t.len = 44100#32)

/-- Rule R179: the pass-by-pass chain and the sample-by-sample cascade compute the same samples, for every list of
sections, form, narrowing mode and input. -/
def Obligations.ChainEqualsSampleCascade : Prop :=
  ∀ (form : BiquadForm) (mode : NarrowMode) (cs : List Coef) (xs : List W),
    chainPass form mode cs xs = cascade form mode cs xs

/-- Rule R154: two passes whose coefficients differ in `A0` only give the same output, in every form. -/
def Obligations.CoefA0HasNoEffect : Prop :=
  ∀ (form : BiquadForm) (c : Coef) (v : W) (xs : List W),
    filterPass form { c with a0 := v } xs = filterPass form c xs

/-- Rule R158: in a DF1 pass, once an output is NaN every later output is NaN, whatever the coefficients. -/
def Obligations.NaNFillsTheRestOfThePass : Prop :=
  ∀ (c : Coef) (xs : List W) (i j : Nat) (y z : W),
    (filterPass .df1 c xs)[i]? = some y → isNaN y = true → i ≤ j →
    (filterPass .df1 c xs)[j]? = some z → isNaN z = true

/-- Rule R159: with `B0`, `B1`, `B2`, `A1`, `A2` all `+0`, a DF1 pass over finite samples gives zeros only. -/
def Obligations.ZeroCoefficientsGiveZeros : Prop :=
  ∀ (v : W) (xs : List W), (∀ x ∈ xs, ∃ neg m, unpack x = .fin neg m) →
    ∀ y ∈ filterPass .df1 { Coef.zero with a0 := v } xs, ∃ neg, unpack y = .fin neg 0

/-! ## The sequencer (47_synthesis_pipeline.md, 70_reset_and_hazards.md) -/

/-- Rules R200, R236: the micro-steps of the sequencer on the private copy, published at the end, and the whole run in one
step give the same state, for every command and every idle state with the invariant. The grain of a micro-step (log 13)
and what the hidden registers keep after completion (log 25) are the model's. -/
def Obligations.MicroStepsRefineTheWholeRun : Prop :=
  ∀ (i : Instr) (s : State), s.Inv → s.status.busy = false →
    ∃ n, exec i s = .next (sequencerRun n (startCommand i s))

/-- Rules R237, R88: every running command completes after finitely many micro-steps; and `wait` ends after finitely many
polls with a word of `STATUS` whose bit 0 is 0, having let the sequencer run to completion and done nothing else (one turn
of the sequencer between two polls is the model's, log 23). -/
def Obligations.EveryRunCompletes : Prop :=
  (∀ s : State, s.Inv → s.status.busy = true →
      ∃ n, (sequencerRun n s).status = statusDone ∧ (sequencerRun n s).seq.phase = .idle) ∧
    ∀ (s : State) (rest : List HostEvent), s.Inv → s.inputs = .wait :: rest →
      ∃ n k u, stepRun n s = .next u ∧ u.inputs = rest ∧ u.status.busy = false ∧
        u.rdata = statusWord u.status ∧ u.rdata.getLsbD 0 = false ∧
        (s.status.busy = true → u.status = statusDone) ∧ (s.status.busy = false → k = 0) ∧
        u = { sequencerRun k s with inputs := rest, rdata := u.rdata, draws := u.draws }

/-- Rules R72 (item 4), R236: a micro-step either leaves everything the host can see as it was, or completes: it publishes
the private copy together with `BUSY <- 0`, `DONE <- 1`. -/
def Obligations.RunIsHiddenUntilCompletion : Prop :=
  ∀ s : State, s.Inv → s.status.busy = true →
    (∃ t, sequencerStep s = t ∧ t.status = s.status ∧ t.buf = s.buf ∧ t.len = s.len ∧ t.coef = s.coef ∧ t.par = s.par) ∨
      (∃ t, sequencerStep s = t ∧ t.status = statusDone ∧ t.seq.phase = .idle ∧ t.buf = t.work.buf ∧
        t.len = t.work.len ∧ t.coef = t.work.coef ∧ t.par = s.par)

/-- Rules R234, R238, R239: a host access during a run changes nothing but the model's `rdata` and `draws`, and the next
micro-step is the same as without it. -/
def Obligations.HostCannotDisturbARun : Prop :=
  ∀ (s : State) (t : Transaction) (o : Bool), s.status.busy = true →
    ∃ u, hostAccess t o s = .next u ∧ u = { s with rdata := u.rdata, draws := u.draws } ∧
      sequencerStep u = { sequencerStep s with rdata := u.rdata, draws := u.draws }

/-! ## Arithmetic (00_scope.md) -/

/-- Rule R11: the rounding gives the nearest magnitude the format has, and of two equally near ones the one whose last kept
bit is 0; for every precision and every least unit, so for `W` (53, 0) and for `S` (24, 925). -/
def Obligations.RoundingIsNearestTiesToEven : Prop :=
  ∀ (prec low p q : Nat), 1 ≤ prec → 0 < q →
    ∃ m, m = roundNearest p q (lastPlace prec low p q) ∧ Representable prec low m ∧
      ∀ z, Representable prec low z →
        |(m * q : Int) - (p : Int)| ≤ |(z * q : Int) - (p : Int)| ∧
          (|(m * q : Int) - (p : Int)| = |(z * q : Int) - (p : Int)| → z ≠ m →
            m / 2 ^ lastPlace prec low p q % 2 = 0)

/-- Rules R10, R11: packing and unpacking are inverse on the magnitudes `W` has below `2^1024` and on every pattern that is
no NaN. -/
def Obligations.PackAndUnpackAreInverse : Prop :=
  (∀ (neg : Bool) (m : Nat), Representable 53 0 m → m < 2 ^ 2098 → unpack (pack (.fin neg m)) = .fin neg m) ∧
    (∀ neg : Bool, unpack (pack (.inf neg)) = .inf neg) ∧
    ∀ b : BitVec 64, unpack (.pat b) ≠ .nan → pack (unpack (.pat b)) = .pat b

/-- Rules R11, R12: on finite operands each operation gives the exact result rounded once, the infinity of its sign where it
overflows, and an exact zero sum or difference of equal values is `+0`; an infinity with a finite operand and two
infinities give what IEEE 754 says; a NaN operand gives a NaN; `Inf (-) Inf`, `0 (x) Inf`, `0 (/) 0`, `Inf (/) Inf` are NaN;
`x (/) 0` for finite non-zero `x` is an infinity with the exclusive-or of the signs. -/
def Obligations.ArithmeticRoundsOnceWithSpecialCases : Prop :=
  (∀ (a b : W) (p q : Bool) (m n : Nat), unpack a = .fin p m → unpack b = .fin q n →
      (p = q → RoundsTo p (m + n) 1 (addW a b)) ∧
        (p ≠ q → n < m → RoundsTo p (m - n) 1 (addW a b)) ∧
        (p ≠ q → m < n → RoundsTo q (n - m) 1 (addW a b)) ∧
        (p ≠ q → m = n → unpack (addW a b) = .fin false 0) ∧
        (p ≠ q → RoundsTo p (m + n) 1 (subW a b)) ∧
        (p = q → n < m → RoundsTo p (m - n) 1 (subW a b)) ∧
        (p = q → m < n → RoundsTo (!q) (n - m) 1 (subW a b)) ∧
        (p = q → m = n → unpack (subW a b) = .fin false 0) ∧
        RoundsTo (p ^^ q) (m * n) (2 ^ 1074) (mulW a b) ∧
        (n ≠ 0 → RoundsTo (p ^^ q) (m * 2 ^ 1074) n (divW a b))) ∧
    (∀ (a b : W) (p q : Bool) (m : Nat), unpack a = .inf p → unpack b = .fin q m →
      unpack (addW a b) = .inf p ∧ unpack (addW b a) = .inf p ∧
        unpack (subW a b) = .inf p ∧ unpack (subW b a) = .inf (!p) ∧
        (m ≠ 0 → unpack (mulW a b) = .inf (p ^^ q) ∧ unpack (mulW b a) = .inf (p ^^ q)) ∧
        unpack (divW a b) = .inf (p ^^ q) ∧ unpack (divW b a) = .fin (p ^^ q) 0) ∧
    (∀ (a b : W) (p q : Bool), unpack a = .inf p → unpack b = .inf q →
      (p = q → unpack (addW a b) = .inf p) ∧ (p ≠ q → isNaN (addW a b) = true) ∧
        (p ≠ q → unpack (subW a b) = .inf p) ∧ unpack (mulW a b) = .inf (p ^^ q)) ∧
    (∀ a b : W, isNaN a = true ∨ isNaN b = true →
      isNaN (addW a b) = true ∧ isNaN (subW a b) = true ∧ isNaN (mulW a b) = true ∧ isNaN (divW a b) = true) ∧
    (∀ (a b : W) (neg : Bool), unpack a = .inf neg → unpack b = .inf neg → isNaN (subW a b) = true) ∧
    (∀ (a b : W) (p q : Bool), unpack a = .fin p 0 → unpack b = .inf q →
      isNaN (mulW a b) = true ∧ isNaN (mulW b a) = true) ∧
    (∀ (a b : W) (p q : Bool), unpack a = .fin p 0 → unpack b = .fin q 0 → isNaN (divW a b) = true) ∧
    (∀ (a b : W) (p q : Bool), unpack a = .inf p → unpack b = .inf q → isNaN (divW a b) = true) ∧
    ∀ (a b : W) (p q : Bool) (m : Nat), unpack a = .fin p m → m ≠ 0 → unpack b = .fin q 0 →
      unpack (divW a b) = .inf (p ^^ q)

/-- Rule R13: `toW` of an integer below `2^53` in magnitude is exact. -/
def Obligations.IntegersConvertExactly : Prop :=
  ∀ n : Int, n.natAbs < 2 ^ 53 → unpack (toW n) = .fin (decide (n < 0)) (n.natAbs * 2 ^ 1074)

/-- Rules R13, R118: `floorW` of a finite value is the largest integer not above it, exactly; a NaN gives a NaN, an infinity
itself, and `-0` gives `-0`. -/
def Obligations.FloorIsTheLargestIntegerBelow : Prop :=
  (∀ (v : W) (neg : Bool) (m : Nat), unpack v = .fin neg m →
      ∃ k : Int, floorInt v = some k ∧
        k * 2 ^ 1074 ≤ (if neg = true then -(m : Int) else (m : Int)) ∧
        (if neg = true then -(m : Int) else (m : Int)) < (k + 1) * 2 ^ 1074 ∧
        unpack (floorW v) = .fin neg (k.natAbs * 2 ^ 1074)) ∧
    (∀ v : W, isNaN v = true → isNaN (floorW v) = true) ∧
    ∀ (v : W) (neg : Bool), unpack v = .inf neg → unpack (floorW v) = .inf neg

/-- Rule R14 (RNE): a finite value below the overflow tie narrows to the nearest `S` value with its sign, and of two equally
near ones to the one whose last fraction bit is 0; at or above the tie, to the infinity of its sign. -/
def Obligations.NarrowRoundsToNearest : Prop :=
  ∀ (v : W) (neg : Bool) (m : Nat), unpack v = .fin neg m →
    (m < 2 ^ 1202 - 2 ^ 1177 →
      ∃ r b, narrow .rne v = .pat b ∧ unpackSample (narrow .rne v) = .fin neg r ∧ Representable 24 925 r ∧
        ∀ z, Representable 24 925 z →
          |(r : Int) - (m : Int)| ≤ |(z : Int) - (m : Int)| ∧
            (|(r : Int) - (m : Int)| = |(z : Int) - (m : Int)| → z ≠ r → b.getLsbD 0 = false)) ∧
      (2 ^ 1202 - 2 ^ 1177 ≤ m → unpackSample (narrow .rne v) = .inf neg)

/-- Rule R14 (RTZ): a finite value narrows to the `S` value of largest magnitude not above it, with its sign; never to an
infinity. -/
def Obligations.NarrowTowardZeroNeverOverflows : Prop :=
  ∀ (v : W) (neg : Bool) (m : Nat), unpack v = .fin neg m →
    ∃ r, unpackSample (narrow .rtz v) = .fin neg r ∧ r ≤ m ∧
      ∀ z, Representable 24 925 z → z < 2 ^ 1202 → z ≤ m → z ≤ r

/-- Rules R14, R177: `narrow(widen(s)) = s` for every `S` pattern that is no NaN, in both modes; a NaN stays a NaN. -/
def Obligations.WidenThenNarrowIsIdentity : Prop :=
  (∀ (mode : NarrowMode) (b : BitVec 32), unpackSample (.pat b) ≠ .nan → narrow mode (widen (.pat b)) = .pat b) ∧
    ∀ (mode : NarrowMode) (v : W), isNaN v = true → isNaN (widen (narrow mode v)) = true

/-- Rule R117: the table of `sign`, for both values of `SIGN_ZERO`; with `SIGN_ZERO = 0` the value at a zero is a zero. -/
def Obligations.SignTable : Prop :=
  ∀ (z : SignZero) (v : W),
    (isNaN v = true → isNaN (signW z v) = true) ∧
      (∀ neg, unpack v = .inf neg → signW z v = if neg = true then wMinusOne else wOne) ∧
      (∀ neg m, unpack v = .fin neg m → m ≠ 0 → signW z v = if neg = true then wMinusOne else wOne) ∧
      (∀ neg, unpack v = .fin neg 0 → signW .plusOne v = wOne ∧ ∃ p, unpack (signW .zero v) = .fin p 0)

/-- Rules R15, R16, R17: the block's use of a configuration function, `applyFn g`, is `g` itself where neither the operand
nor the result is a NaN, a NaN where the result is one, and for a NaN operand what `g` gives for a NaN without its
pattern (DEDUCED, log 5). Rules R102, R104, R105 with the property `SIN_ZERO` of R15, for any choice of the functions that
has it: at index 0 the Sine sample is a zero with the sign of `AMP`, where `AMP` is finite and `TWO_PI (x) FREQ` is finite
and not negative. At `AMP = -0` this is the pseudocode of R104 with the sign rule of R11 (DEDUCED, log 27). -/
def Obligations.FunctionsApplyAndFirstSineIsZero : Prop :=
  (∀ (g : W → W) (v : W),
      (isNaN v = false → isNaN (g v) = false → applyFn g v = g v) ∧
        (isNaN v = false → isNaN (g v) = true → isNaN (applyFn g v) = true) ∧
        (isNaN v = true → isNaN (g .nan) = false → applyFn g v = g .nan) ∧
        (isNaN v = true → isNaN (g .nan) = true → isNaN (applyFn g v) = true)) ∧
    ∀ (f : Functions) (freq amp : W) (rate : Int) (neg : Bool) (m k : Nat),
      SinZero f → 0 < rate → rate < 2 ^ 31 → unpack amp = .fin neg m →
      unpack (mulW wTwoPi freq) = .fin false k →
      unpack (sineSample f freq amp (timeOf rate 0)) = .fin neg 0

/-! ## The reserved space (20_memory.md) -/

/-- Rules R60, R69: with space code 3, idle and busy alike, a read returns zero and a write is ignored; the read changes
nothing but the model's own `rdata` and `draws` (log 3, log 15). -/
def Obligations.ReservedSpaceReadsZero : Prop :=
  ∀ (s : State) (t : Transaction) (o : Bool), t.space = 3#2 →
    (t.we = true → hostAccess t o s = .next s) ∧
      (t.we = false → ∃ u, hostAccess t o s = .next u ∧ u = { s with rdata := 0#64, draws := u.draws })
end

