-- ==== Sys2Proof/Laws/Filter.lean ====
section
/-! SUPPORT. The small lemmas of the filter pass. -/

namespace Sys2Proof.Machine

@[simp] theorem filterList_nil (c : Coef) (d : Delay) : filterList c d [] = ([], d) := by rfl

theorem filterList_cons (c : Coef) (d : Delay) (x : W) (xs : List W) :
    filterList c d (x :: xs) =
      ((filterStep c d x).1 :: (filterList c (filterStep c d x).2 xs).1,
        (filterList c (filterStep c d x).2 xs).2) := by rfl

@[simp] theorem length_filterList (c : Coef) (d : Delay) (xs : List W) :
    (filterList c d xs).1.length = xs.length := by
  induction xs generalizing d with
  | nil => rfl
  | cons x xs ih => simp [filterList_cons, ih]

@[simp] theorem length_filterPass (form : BiquadForm) (c : Coef) (xs : List W) :
    (filterPass form c xs).length = xs.length := by
  simp [filterPass]

/-- A pass over a list and one more sample is the pass over the list, then that sample's step. -/
theorem filterList_append (c : Coef) (d : Delay) (xs ys : List W) :
    filterList c d (xs ++ ys) =
      ((filterList c d xs).1 ++ (filterList c (filterList c d xs).2 ys).1,
        (filterList c (filterList c d xs).2 ys).2) := by
  induction xs generalizing d with
  | nil => simp
  | cons x xs ih => simp [filterList_cons, ih]

end Sys2Proof.Machine
end

