-- ==== Sys2Proof/Laws/Memory.lean ====
section
/-! SUPPORT. What the operations over the buffer memory do: a read after a write, the canonical form, the bound on the
indices, and that two canonical memories which read alike are equal. -/

namespace Sys2Proof.Machine

/-! ## Reads after writes -/

@[simp] theorem read_nil (i : Nat) : Memory.read [] i = none := by rfl

@[simp] theorem read_write_same (m : Memory) (i : Nat) (v : W) :
    Memory.read (Memory.write m i v) i = some v := by
  induction m with
  | nil => simp [Memory.write, Memory.read]
  | cons e m ih =>
    obtain ⟨j, u⟩ := e
    unfold Memory.write
    split
    · simp [Memory.read]
    · split
      · simp [Memory.read]
      · simp [Memory.read, *]

theorem read_write_other (m : Memory) {i k : Nat} (v : W) (h : k ≠ i) :
    Memory.read (Memory.write m i v) k = Memory.read m k := by
  induction m with
  | nil => simp [Memory.write, Memory.read, h]
  | cons e m ih =>
    obtain ⟨j, u⟩ := e
    unfold Memory.write
    split
    · subst_vars
      simp [Memory.read, h]
    · split
      · by_cases hk : k < i
        · simp only [Memory.read, h, if_false, hk, if_true]
          rw [if_neg (by omega), if_pos (by omega)]
        · simp [Memory.read, h, hk]
      · simp only [Memory.read, ih]

theorem read_write (m : Memory) (i k : Nat) (v : W) :
    Memory.read (Memory.write m i v) k = if k = i then some v else Memory.read m k := by
  split
  · subst_vars; exact read_write_same m k v
  · exact read_write_other m v ‹_›

/-- What a list write leaves: the list on its own range, the old memory elsewhere. -/
theorem read_writeList (m : Memory) (i k : Nat) (vs : List W) :
    Memory.read (Memory.writeList m i vs) k =
      if i ≤ k ∧ k < i + vs.length then vs[k - i]? else Memory.read m k := by
  induction vs generalizing m i with
  | nil =>
    rw [Memory.writeList, if_neg (by simp only [List.length_nil]; omega)]
  | cons v vs ih =>
    rw [Memory.writeList, ih, read_write]
    by_cases h1 : k = i
    · subst h1
      simp
    · by_cases h2 : i + 1 ≤ k ∧ k < i + 1 + vs.length
      · have h3 : i ≤ k ∧ k < i + (v :: vs).length := by simp only [List.length_cons]; omega
        rw [if_pos h2, if_pos h3, show k - i = (k - (i + 1)) + 1 by omega]
        simp
      · have h3 : ¬ (i ≤ k ∧ k < i + (v :: vs).length) := by simp only [List.length_cons]; omega
        rw [if_neg h2, if_neg h3, if_neg h1]

/-! ## The canonical form -/

theorem wf_cons {j : Nat} {u : W} {m : Memory} :
    Memory.wf ((j, u) :: m) = true ↔ (∀ e ∈ m.head?, j < e.1) ∧ Memory.wf m = true := by
  cases m with
  | nil => simp [Memory.wf]
  | cons e m => obtain ⟨k, w⟩ := e; simp [Memory.wf]

theorem head_write (m : Memory) (i : Nat) (v : W) :
    ∀ e ∈ (Memory.write m i v).head?, e.1 = i ∨ ∃ f ∈ m.head?, e.1 = f.1 := by
  cases m with
  | nil => simp [Memory.write]
  | cons e m =>
    obtain ⟨j, u⟩ := e
    unfold Memory.write
    split
    · simp
    · split <;> simp

theorem write_wf (m : Memory) (i : Nat) (v : W) (h : Memory.wf m = true) :
    Memory.wf (Memory.write m i v) = true := by
  induction m with
  | nil => rfl
  | cons e m ih =>
    obtain ⟨j, u⟩ := e
    have hc := wf_cons.mp h
    unfold Memory.write
    split
    · subst_vars
      exact wf_cons.mpr hc
    · split
      · exact wf_cons.mpr ⟨by simpa using ‹i < j›, h⟩
      · refine wf_cons.mpr ⟨fun e he => ?_, ih hc.2⟩
        rcases head_write m i v e he with h1 | ⟨f, hf, h1⟩
        · omega
        · rw [h1]; exact hc.1 f hf

theorem writeList_wf (vs : List W) (m : Memory) (i : Nat) (h : Memory.wf m = true) :
    Memory.wf (Memory.writeList m i vs) = true := by
  induction vs generalizing m i with
  | nil => exact h
  | cons v vs ih => exact ih _ _ (write_wf m i v h)

theorem write_below {n : Nat} (m : Memory) {i : Nat} (v : W) (hi : i < n) (h : Memory.below n m = true) :
    Memory.below n (Memory.write m i v) = true := by
  induction m with
  | nil => simpa [Memory.write, Memory.below] using hi
  | cons e m ih =>
    obtain ⟨j, u⟩ := e
    simp only [Memory.below, List.all_cons, Bool.and_eq_true, decide_eq_true_eq] at h ih
    unfold Memory.write
    split
    · simp [Memory.below, h.2, hi]
    · split
      · simp [Memory.below, h.2, hi, h.1]
      · simp [Memory.below, h.1, ih h.2]

theorem writeList_below {n : Nat} (vs : List W) (m : Memory) {i : Nat} (hi : i + vs.length ≤ n)
    (h : Memory.below n m = true) : Memory.below n (Memory.writeList m i vs) = true := by
  induction vs generalizing m i with
  | nil => exact h
  | cons v vs ih =>
    simp only [List.length_cons] at hi
    exact ih _ (by omega) (write_below m v (by omega) h)

/-- An index below every entry reads as nothing. -/
theorem read_eq_none_of_lt_head (m : Memory) (i : Nat) (h : ∀ e ∈ m.head?, i < e.1) :
    Memory.read m i = none := by
  cases m with
  | nil => rfl
  | cons e m =>
    obtain ⟨j, u⟩ := e
    have : i < j := by simpa using h
    simp only [Memory.read]
    rw [if_neg (by omega), if_pos this]

theorem head_lt_of_wf {j : Nat} {u : W} {m : Memory} (h : Memory.wf ((j, u) :: m) = true) {i : Nat}
    (hi : i ≤ j) : Memory.read m i = none :=
  read_eq_none_of_lt_head m i fun e he => lt_of_le_of_lt hi ((wf_cons.mp h).1 e he)

/-- Canonical memories that read alike are equal: the canonical form makes equal memories equal data. -/
theorem eq_of_read_eq {m m' : Memory} (h : Memory.wf m = true) (h' : Memory.wf m' = true)
    (hr : ∀ i, Memory.read m i = Memory.read m' i) : m = m' := by
  induction m generalizing m' with
  | nil =>
    cases m' with
    | nil => rfl
    | cons e m' =>
      obtain ⟨j, u⟩ := e
      have := hr j
      simp [Memory.read] at this
  | cons e m ih =>
    obtain ⟨j, u⟩ := e
    cases m' with
    | nil =>
      have := hr j
      simp [Memory.read] at this
    | cons e' m' =>
      obtain ⟨k, w⟩ := e'
      have hj := hr j
      have hk := hr k
      have hjk : j = k := by
        rcases Nat.lt_trichotomy j k with h1 | h1 | h1
        · simp [Memory.read, h1, Nat.ne_of_lt h1] at hj
        · exact h1
        · simp [Memory.read, h1, Nat.ne_of_lt h1] at hk
      subst hjk
      have huw : u = w := by simpa [Memory.read] using hj
      subst huw
      congr 1
      refine ih (wf_cons.mp h).2 (wf_cons.mp h').2 fun i => ?_
      rcases Nat.lt_trichotomy i j with h1 | h1 | h1
      · rw [head_lt_of_wf h (le_of_lt h1), head_lt_of_wf h' (le_of_lt h1)]
      · rw [head_lt_of_wf h (le_of_eq h1), head_lt_of_wf h' (le_of_eq h1)]
      · have := hr i
        simpa [Memory.read, Nat.ne_of_gt h1, Nat.not_lt_of_gt h1] using this

/-! ## The entries a running command reads -/

@[simp] theorem length_readEntries (w : Work) : (readEntries w).length = w.len.toNat := by
  simp [readEntries]

theorem getElem?_readEntries (w : Work) {j : Nat} (h : j < w.len.toNat) :
    (readEntries w)[j]? = some (readEntry w j) := by
  simp [readEntries, h]

end Sys2Proof.Machine
end

