-- ==== Sys2Proof/Laws/State.lean ====
section
/-! SUPPORT. One lemma per field of State for each update of it, true by `rfl`, and the fields the stages of the commands
leave alone.

Prove a fact about a record update with these lemmas (`simp [genStage]`), never by `rfl` over a stage: to compare two
states by unfolding makes the kernel open the arithmetic of the new field's value. The lemmas are proved `by rfl`, so
`simp` rewrites with them instead of handing the whole chain to the kernel as one definitional equality. -/

namespace Sys2Proof.Machine

/-! ## `reject` -/

@[simp] theorem reject_cfg (e : ErrCode) (s : State) :
    (reject e s).cfg = s.cfg := by rfl
@[simp] theorem reject_status (e : ErrCode) (s : State) :
    (reject e s).status = statusError e := by rfl
@[simp] theorem reject_par (e : ErrCode) (s : State) :
    (reject e s).par = s.par := by rfl
@[simp] theorem reject_coef (e : ErrCode) (s : State) :
    (reject e s).coef = s.coef := by rfl
@[simp] theorem reject_buf (e : ErrCode) (s : State) :
    (reject e s).buf = s.buf := by rfl
@[simp] theorem reject_len (e : ErrCode) (s : State) :
    (reject e s).len = s.len := by rfl
@[simp] theorem reject_delay (e : ErrCode) (s : State) :
    (reject e s).delay = s.delay := by rfl
@[simp] theorem reject_seq (e : ErrCode) (s : State) :
    (reject e s).seq = s.seq := by rfl
@[simp] theorem reject_work (e : ErrCode) (s : State) :
    (reject e s).work = s.work := by rfl
@[simp] theorem reject_draws (e : ErrCode) (s : State) :
    (reject e s).draws = s.draws := by rfl
@[simp] theorem reject_inputs (e : ErrCode) (s : State) :
    (reject e s).inputs = s.inputs := by rfl
@[simp] theorem reject_rdata (e : ErrCode) (s : State) :
    (reject e s).rdata = s.rdata := by rfl

/-! ## `accept` -/

@[simp] theorem accept_cfg (i : Instr) (s : State) :
    (accept i s).cfg = s.cfg := by rfl
@[simp] theorem accept_status (i : Instr) (s : State) :
    (accept i s).status = statusBusy := by rfl
@[simp] theorem accept_par (i : Instr) (s : State) :
    (accept i s).par = s.par := by rfl
@[simp] theorem accept_coef (i : Instr) (s : State) :
    (accept i s).coef = s.coef := by rfl
@[simp] theorem accept_buf (i : Instr) (s : State) :
    (accept i s).buf = s.buf := by rfl
@[simp] theorem accept_len (i : Instr) (s : State) :
    (accept i s).len = s.len := by rfl
@[simp] theorem accept_delay (i : Instr) (s : State) :
    (accept i s).delay = if firstPhase i = .filt then Delay.zero s.cfg.biquadForm else s.delay := by rfl
@[simp] theorem accept_seq (i : Instr) (s : State) :
    (accept i s).seq = { phase := firstPhase i, k := i.operand, i := 0#32, opc := i.opcode, stage := .none } := by rfl
@[simp] theorem accept_work (i : Instr) (s : State) :
    (accept i s).work = takeWork s := by rfl
@[simp] theorem accept_draws (i : Instr) (s : State) :
    (accept i s).draws = s.draws + entriesRead s.len i := by rfl
@[simp] theorem accept_inputs (i : Instr) (s : State) :
    (accept i s).inputs = s.inputs := by rfl
@[simp] theorem accept_rdata (i : Instr) (s : State) :
    (accept i s).rdata = s.rdata := by rfl

/-! ## `complete` -/

@[simp] theorem complete_cfg (s : State) :
    (complete s).cfg = s.cfg := by rfl
@[simp] theorem complete_status (s : State) :
    (complete s).status = statusComplete s.status := by rfl
@[simp] theorem complete_par (s : State) :
    (complete s).par = s.par := by rfl
@[simp] theorem complete_coef (s : State) :
    (complete s).coef = s.work.coef := by rfl
@[simp] theorem complete_buf (s : State) :
    (complete s).buf = s.work.buf := by rfl
@[simp] theorem complete_len (s : State) :
    (complete s).len = s.work.len := by rfl
@[simp] theorem complete_delay (s : State) :
    (complete s).delay = s.delay := by rfl
@[simp] theorem complete_seq (s : State) :
    (complete s).seq = { s.seq with phase := .idle } := by rfl
@[simp] theorem complete_work (s : State) :
    (complete s).work = s.work := by rfl
@[simp] theorem complete_draws (s : State) :
    (complete s).draws = s.draws := by rfl
@[simp] theorem complete_inputs (s : State) :
    (complete s).inputs = s.inputs := by rfl
@[simp] theorem complete_rdata (s : State) :
    (complete s).rdata = s.rdata := by rfl

/-! ## `resetState` -/

@[simp] theorem resetState_cfg (s : State) :
    (resetState s).cfg = s.cfg := by rfl
@[simp] theorem resetState_status (s : State) :
    (resetState s).status = Status.idle := by rfl
@[simp] theorem resetState_par (s : State) :
    (resetState s).par = Params.reset s.cfg := by rfl
@[simp] theorem resetState_coef (s : State) :
    (resetState s).coef = Coef.zero := by rfl
@[simp] theorem resetState_buf (s : State) :
    (resetState s).buf = [] := by rfl
@[simp] theorem resetState_len (s : State) :
    (resetState s).len = 0#32 := by rfl
@[simp] theorem resetState_delay (s : State) :
    (resetState s).delay = Delay.zero s.cfg.biquadForm := by rfl
@[simp] theorem resetState_seq (s : State) :
    (resetState s).seq = Sequencer.reset := by rfl
@[simp] theorem resetState_work (s : State) :
    (resetState s).work = Work.reset := by rfl
@[simp] theorem resetState_draws (s : State) :
    (resetState s).draws = s.draws := by rfl
@[simp] theorem resetState_inputs (s : State) :
    (resetState s).inputs = s.inputs := by rfl
@[simp] theorem resetState_rdata (s : State) :
    (resetState s).rdata = s.rdata := by rfl

/-! ## `storeEntries` -/

@[simp] theorem storeEntries_cfg (vs : List W) (s : State) :
    (storeEntries vs s).cfg = s.cfg := by rfl
@[simp] theorem storeEntries_status (vs : List W) (s : State) :
    (storeEntries vs s).status = s.status := by rfl
@[simp] theorem storeEntries_par (vs : List W) (s : State) :
    (storeEntries vs s).par = s.par := by rfl
@[simp] theorem storeEntries_coef (vs : List W) (s : State) :
    (storeEntries vs s).coef = s.coef := by rfl
@[simp] theorem storeEntries_buf (vs : List W) (s : State) :
    (storeEntries vs s).buf = s.buf := by rfl
@[simp] theorem storeEntries_len (vs : List W) (s : State) :
    (storeEntries vs s).len = s.len := by rfl
@[simp] theorem storeEntries_delay (vs : List W) (s : State) :
    (storeEntries vs s).delay = s.delay := by rfl
@[simp] theorem storeEntries_seq (vs : List W) (s : State) :
    (storeEntries vs s).seq = s.seq := by rfl
@[simp] theorem storeEntries_work (vs : List W) (s : State) :
    (storeEntries vs s).work = { s.work with buf := Memory.writeList s.work.buf 0 vs } := by rfl
@[simp] theorem storeEntries_draws (vs : List W) (s : State) :
    (storeEntries vs s).draws = s.draws := by rfl
@[simp] theorem storeEntries_inputs (vs : List W) (s : State) :
    (storeEntries vs s).inputs = s.inputs := by rfl
@[simp] theorem storeEntries_rdata (vs : List W) (s : State) :
    (storeEntries vs s).rdata = s.rdata := by rfl

/-! ## `storeEntry` -/

@[simp] theorem storeEntry_cfg (j : Nat) (v : W) (s : State) :
    (storeEntry j v s).cfg = s.cfg := by rfl
@[simp] theorem storeEntry_status (j : Nat) (v : W) (s : State) :
    (storeEntry j v s).status = s.status := by rfl
@[simp] theorem storeEntry_par (j : Nat) (v : W) (s : State) :
    (storeEntry j v s).par = s.par := by rfl
@[simp] theorem storeEntry_coef (j : Nat) (v : W) (s : State) :
    (storeEntry j v s).coef = s.coef := by rfl
@[simp] theorem storeEntry_buf (j : Nat) (v : W) (s : State) :
    (storeEntry j v s).buf = s.buf := by rfl
@[simp] theorem storeEntry_len (j : Nat) (v : W) (s : State) :
    (storeEntry j v s).len = s.len := by rfl
@[simp] theorem storeEntry_delay (j : Nat) (v : W) (s : State) :
    (storeEntry j v s).delay = s.delay := by rfl
@[simp] theorem storeEntry_seq (j : Nat) (v : W) (s : State) :
    (storeEntry j v s).seq = s.seq := by rfl
@[simp] theorem storeEntry_work (j : Nat) (v : W) (s : State) :
    (storeEntry j v s).work = { s.work with buf := Memory.write s.work.buf j v } := by rfl
@[simp] theorem storeEntry_draws (j : Nat) (v : W) (s : State) :
    (storeEntry j v s).draws = s.draws := by rfl
@[simp] theorem storeEntry_inputs (j : Nat) (v : W) (s : State) :
    (storeEntry j v s).inputs = s.inputs := by rfl
@[simp] theorem storeEntry_rdata (j : Nat) (v : W) (s : State) :
    (storeEntry j v s).rdata = s.rdata := by rfl

/-! ## `storeLen` -/

@[simp] theorem storeLen_cfg (n : Nat) (s : State) :
    (storeLen n s).cfg = s.cfg := by rfl
@[simp] theorem storeLen_status (n : Nat) (s : State) :
    (storeLen n s).status = s.status := by rfl
@[simp] theorem storeLen_par (n : Nat) (s : State) :
    (storeLen n s).par = s.par := by rfl
@[simp] theorem storeLen_coef (n : Nat) (s : State) :
    (storeLen n s).coef = s.coef := by rfl
@[simp] theorem storeLen_buf (n : Nat) (s : State) :
    (storeLen n s).buf = s.buf := by rfl
@[simp] theorem storeLen_len (n : Nat) (s : State) :
    (storeLen n s).len = s.len := by rfl
@[simp] theorem storeLen_delay (n : Nat) (s : State) :
    (storeLen n s).delay = s.delay := by rfl
@[simp] theorem storeLen_seq (n : Nat) (s : State) :
    (storeLen n s).seq = s.seq := by rfl
@[simp] theorem storeLen_work (n : Nat) (s : State) :
    (storeLen n s).work = { s.work with len := BitVec.ofNat 32 n } := by rfl
@[simp] theorem storeLen_draws (n : Nat) (s : State) :
    (storeLen n s).draws = s.draws := by rfl
@[simp] theorem storeLen_inputs (n : Nat) (s : State) :
    (storeLen n s).inputs = s.inputs := by rfl
@[simp] theorem storeLen_rdata (n : Nat) (s : State) :
    (storeLen n s).rdata = s.rdata := by rfl

/-! ## `storeCoef` -/

@[simp] theorem storeCoef_cfg (c : Coef) (s : State) :
    (storeCoef c s).cfg = s.cfg := by rfl
@[simp] theorem storeCoef_status (c : Coef) (s : State) :
    (storeCoef c s).status = s.status := by rfl
@[simp] theorem storeCoef_par (c : Coef) (s : State) :
    (storeCoef c s).par = s.par := by rfl
@[simp] theorem storeCoef_coef (c : Coef) (s : State) :
    (storeCoef c s).coef = s.coef := by rfl
@[simp] theorem storeCoef_buf (c : Coef) (s : State) :
    (storeCoef c s).buf = s.buf := by rfl
@[simp] theorem storeCoef_len (c : Coef) (s : State) :
    (storeCoef c s).len = s.len := by rfl
@[simp] theorem storeCoef_delay (c : Coef) (s : State) :
    (storeCoef c s).delay = s.delay := by rfl
@[simp] theorem storeCoef_seq (c : Coef) (s : State) :
    (storeCoef c s).seq = s.seq := by rfl
@[simp] theorem storeCoef_work (c : Coef) (s : State) :
    (storeCoef c s).work = { s.work with coef := c } := by rfl
@[simp] theorem storeCoef_draws (c : Coef) (s : State) :
    (storeCoef c s).draws = s.draws := by rfl
@[simp] theorem storeCoef_inputs (c : Coef) (s : State) :
    (storeCoef c s).inputs = s.inputs := by rfl
@[simp] theorem storeCoef_rdata (c : Coef) (s : State) :
    (storeCoef c s).rdata = s.rdata := by rfl

/-! ## `setDelay` -/

@[simp] theorem setDelay_cfg (d : Delay) (s : State) :
    (setDelay d s).cfg = s.cfg := by rfl
@[simp] theorem setDelay_status (d : Delay) (s : State) :
    (setDelay d s).status = s.status := by rfl
@[simp] theorem setDelay_par (d : Delay) (s : State) :
    (setDelay d s).par = s.par := by rfl
@[simp] theorem setDelay_coef (d : Delay) (s : State) :
    (setDelay d s).coef = s.coef := by rfl
@[simp] theorem setDelay_buf (d : Delay) (s : State) :
    (setDelay d s).buf = s.buf := by rfl
@[simp] theorem setDelay_len (d : Delay) (s : State) :
    (setDelay d s).len = s.len := by rfl
@[simp] theorem setDelay_delay (d : Delay) (s : State) :
    (setDelay d s).delay = d := by rfl
@[simp] theorem setDelay_seq (d : Delay) (s : State) :
    (setDelay d s).seq = s.seq := by rfl
@[simp] theorem setDelay_work (d : Delay) (s : State) :
    (setDelay d s).work = s.work := by rfl
@[simp] theorem setDelay_draws (d : Delay) (s : State) :
    (setDelay d s).draws = s.draws := by rfl
@[simp] theorem setDelay_inputs (d : Delay) (s : State) :
    (setDelay d s).inputs = s.inputs := by rfl
@[simp] theorem setDelay_rdata (d : Delay) (s : State) :
    (setDelay d s).rdata = s.rdata := by rfl

/-! ## `setPhase` -/

@[simp] theorem setPhase_cfg (p : Phase) (s : State) :
    (setPhase p s).cfg = s.cfg := by rfl
@[simp] theorem setPhase_status (p : Phase) (s : State) :
    (setPhase p s).status = s.status := by rfl
@[simp] theorem setPhase_par (p : Phase) (s : State) :
    (setPhase p s).par = s.par := by rfl
@[simp] theorem setPhase_coef (p : Phase) (s : State) :
    (setPhase p s).coef = s.coef := by rfl
@[simp] theorem setPhase_buf (p : Phase) (s : State) :
    (setPhase p s).buf = s.buf := by rfl
@[simp] theorem setPhase_len (p : Phase) (s : State) :
    (setPhase p s).len = s.len := by rfl
@[simp] theorem setPhase_delay (p : Phase) (s : State) :
    (setPhase p s).delay = s.delay := by rfl
@[simp] theorem setPhase_seq (p : Phase) (s : State) :
    (setPhase p s).seq = { s.seq with phase := p } := by rfl
@[simp] theorem setPhase_work (p : Phase) (s : State) :
    (setPhase p s).work = s.work := by rfl
@[simp] theorem setPhase_draws (p : Phase) (s : State) :
    (setPhase p s).draws = s.draws := by rfl
@[simp] theorem setPhase_inputs (p : Phase) (s : State) :
    (setPhase p s).inputs = s.inputs := by rfl
@[simp] theorem setPhase_rdata (p : Phase) (s : State) :
    (setPhase p s).rdata = s.rdata := by rfl

/-! ## `setIndex` -/

@[simp] theorem setIndex_cfg (j : BitVec 32) (s : State) :
    (setIndex j s).cfg = s.cfg := by rfl
@[simp] theorem setIndex_status (j : BitVec 32) (s : State) :
    (setIndex j s).status = s.status := by rfl
@[simp] theorem setIndex_par (j : BitVec 32) (s : State) :
    (setIndex j s).par = s.par := by rfl
@[simp] theorem setIndex_coef (j : BitVec 32) (s : State) :
    (setIndex j s).coef = s.coef := by rfl
@[simp] theorem setIndex_buf (j : BitVec 32) (s : State) :
    (setIndex j s).buf = s.buf := by rfl
@[simp] theorem setIndex_len (j : BitVec 32) (s : State) :
    (setIndex j s).len = s.len := by rfl
@[simp] theorem setIndex_delay (j : BitVec 32) (s : State) :
    (setIndex j s).delay = s.delay := by rfl
@[simp] theorem setIndex_seq (j : BitVec 32) (s : State) :
    (setIndex j s).seq = { s.seq with i := j } := by rfl
@[simp] theorem setIndex_work (j : BitVec 32) (s : State) :
    (setIndex j s).work = s.work := by rfl
@[simp] theorem setIndex_draws (j : BitVec 32) (s : State) :
    (setIndex j s).draws = s.draws := by rfl
@[simp] theorem setIndex_inputs (j : BitVec 32) (s : State) :
    (setIndex j s).inputs = s.inputs := by rfl
@[simp] theorem setIndex_rdata (j : BitVec 32) (s : State) :
    (setIndex j s).rdata = s.rdata := by rfl

/-! ## `setBand` -/

@[simp] theorem setBand_cfg (k : BitVec 4) (s : State) :
    (setBand k s).cfg = s.cfg := by rfl
@[simp] theorem setBand_status (k : BitVec 4) (s : State) :
    (setBand k s).status = s.status := by rfl
@[simp] theorem setBand_par (k : BitVec 4) (s : State) :
    (setBand k s).par = s.par := by rfl
@[simp] theorem setBand_coef (k : BitVec 4) (s : State) :
    (setBand k s).coef = s.coef := by rfl
@[simp] theorem setBand_buf (k : BitVec 4) (s : State) :
    (setBand k s).buf = s.buf := by rfl
@[simp] theorem setBand_len (k : BitVec 4) (s : State) :
    (setBand k s).len = s.len := by rfl
@[simp] theorem setBand_delay (k : BitVec 4) (s : State) :
    (setBand k s).delay = s.delay := by rfl
@[simp] theorem setBand_seq (k : BitVec 4) (s : State) :
    (setBand k s).seq = { s.seq with k := k } := by rfl
@[simp] theorem setBand_work (k : BitVec 4) (s : State) :
    (setBand k s).work = s.work := by rfl
@[simp] theorem setBand_draws (k : BitVec 4) (s : State) :
    (setBand k s).draws = s.draws := by rfl
@[simp] theorem setBand_inputs (k : BitVec 4) (s : State) :
    (setBand k s).inputs = s.inputs := by rfl
@[simp] theorem setBand_rdata (k : BitVec 4) (s : State) :
    (setBand k s).rdata = s.rdata := by rfl

/-! ## `setStage` -/

@[simp] theorem setStage_cfg (g : Stage) (s : State) :
    (setStage g s).cfg = s.cfg := by rfl
@[simp] theorem setStage_status (g : Stage) (s : State) :
    (setStage g s).status = s.status := by rfl
@[simp] theorem setStage_par (g : Stage) (s : State) :
    (setStage g s).par = s.par := by rfl
@[simp] theorem setStage_coef (g : Stage) (s : State) :
    (setStage g s).coef = s.coef := by rfl
@[simp] theorem setStage_buf (g : Stage) (s : State) :
    (setStage g s).buf = s.buf := by rfl
@[simp] theorem setStage_len (g : Stage) (s : State) :
    (setStage g s).len = s.len := by rfl
@[simp] theorem setStage_delay (g : Stage) (s : State) :
    (setStage g s).delay = s.delay := by rfl
@[simp] theorem setStage_seq (g : Stage) (s : State) :
    (setStage g s).seq = { s.seq with stage := g } := by rfl
@[simp] theorem setStage_work (g : Stage) (s : State) :
    (setStage g s).work = s.work := by rfl
@[simp] theorem setStage_draws (g : Stage) (s : State) :
    (setStage g s).draws = s.draws := by rfl
@[simp] theorem setStage_inputs (g : Stage) (s : State) :
    (setStage g s).inputs = s.inputs := by rfl
@[simp] theorem setStage_rdata (g : Stage) (s : State) :
    (setStage g s).rdata = s.rdata := by rfl

/-! ## `hostRead` -/

@[simp] theorem hostRead_cfg (t : Transaction) (s : State) :
    (hostRead t s).cfg = s.cfg := by rfl
@[simp] theorem hostRead_status (t : Transaction) (s : State) :
    (hostRead t s).status = s.status := by rfl
@[simp] theorem hostRead_par (t : Transaction) (s : State) :
    (hostRead t s).par = s.par := by rfl
@[simp] theorem hostRead_coef (t : Transaction) (s : State) :
    (hostRead t s).coef = s.coef := by rfl
@[simp] theorem hostRead_buf (t : Transaction) (s : State) :
    (hostRead t s).buf = s.buf := by rfl
@[simp] theorem hostRead_len (t : Transaction) (s : State) :
    (hostRead t s).len = s.len := by rfl
@[simp] theorem hostRead_delay (t : Transaction) (s : State) :
    (hostRead t s).delay = s.delay := by rfl
@[simp] theorem hostRead_seq (t : Transaction) (s : State) :
    (hostRead t s).seq = s.seq := by rfl
@[simp] theorem hostRead_work (t : Transaction) (s : State) :
    (hostRead t s).work = s.work := by rfl
@[simp] theorem hostRead_draws (t : Transaction) (s : State) :
    (hostRead t s).draws = s.draws + 1 := by rfl
@[simp] theorem hostRead_inputs (t : Transaction) (s : State) :
    (hostRead t s).inputs = s.inputs := by rfl
@[simp] theorem hostRead_rdata (t : Transaction) (s : State) :
    (hostRead t s).rdata = readData s t := by rfl

/-! ## `genStage` -/

@[simp] theorem genStage_cfg (s : State) :
    (genStage s).cfg = s.cfg := by simp [genStage]
@[simp] theorem genStage_status (s : State) :
    (genStage s).status = s.status := by simp [genStage]
@[simp] theorem genStage_par (s : State) :
    (genStage s).par = s.par := by simp [genStage]
@[simp] theorem genStage_coef (s : State) :
    (genStage s).coef = s.coef := by simp [genStage]
@[simp] theorem genStage_buf (s : State) :
    (genStage s).buf = s.buf := by simp [genStage]
@[simp] theorem genStage_len (s : State) :
    (genStage s).len = s.len := by simp [genStage]
@[simp] theorem genStage_draws (s : State) :
    (genStage s).draws = s.draws := by simp [genStage]
@[simp] theorem genStage_inputs (s : State) :
    (genStage s).inputs = s.inputs := by simp [genStage]
@[simp] theorem genStage_rdata (s : State) :
    (genStage s).rdata = s.rdata := by simp [genStage]
@[simp] theorem genStage_delay (s : State) :
    (genStage s).delay = s.delay := by simp [genStage]
@[simp] theorem genStage_work_base (s : State) :
    (genStage s).work.base = s.work.base := by simp [genStage]

/-! ## `designResStage` -/

@[simp] theorem designResStage_cfg (s : State) :
    (designResStage s).cfg = s.cfg := by simp [designResStage]
@[simp] theorem designResStage_status (s : State) :
    (designResStage s).status = s.status := by simp [designResStage]
@[simp] theorem designResStage_par (s : State) :
    (designResStage s).par = s.par := by simp [designResStage]
@[simp] theorem designResStage_coef (s : State) :
    (designResStage s).coef = s.coef := by simp [designResStage]
@[simp] theorem designResStage_buf (s : State) :
    (designResStage s).buf = s.buf := by simp [designResStage]
@[simp] theorem designResStage_len (s : State) :
    (designResStage s).len = s.len := by simp [designResStage]
@[simp] theorem designResStage_draws (s : State) :
    (designResStage s).draws = s.draws := by simp [designResStage]
@[simp] theorem designResStage_inputs (s : State) :
    (designResStage s).inputs = s.inputs := by simp [designResStage]
@[simp] theorem designResStage_rdata (s : State) :
    (designResStage s).rdata = s.rdata := by simp [designResStage]
@[simp] theorem designResStage_delay (s : State) :
    (designResStage s).delay = s.delay := by simp [designResStage]
@[simp] theorem designResStage_seq (s : State) :
    (designResStage s).seq = s.seq := by simp [designResStage]
@[simp] theorem designResStage_work_base (s : State) :
    (designResStage s).work.base = s.work.base := by simp [designResStage]
@[simp] theorem designResStage_work_len (s : State) :
    (designResStage s).work.len = s.work.len := by simp [designResStage]

/-! ## `designBandStage` -/

@[simp] theorem designBandStage_cfg (k : BitVec 4) (s : State) :
    (designBandStage k s).cfg = s.cfg := by simp [designBandStage]
@[simp] theorem designBandStage_status (k : BitVec 4) (s : State) :
    (designBandStage k s).status = s.status := by simp [designBandStage]
@[simp] theorem designBandStage_par (k : BitVec 4) (s : State) :
    (designBandStage k s).par = s.par := by simp [designBandStage]
@[simp] theorem designBandStage_coef (k : BitVec 4) (s : State) :
    (designBandStage k s).coef = s.coef := by simp [designBandStage]
@[simp] theorem designBandStage_buf (k : BitVec 4) (s : State) :
    (designBandStage k s).buf = s.buf := by simp [designBandStage]
@[simp] theorem designBandStage_len (k : BitVec 4) (s : State) :
    (designBandStage k s).len = s.len := by simp [designBandStage]
@[simp] theorem designBandStage_draws (k : BitVec 4) (s : State) :
    (designBandStage k s).draws = s.draws := by simp [designBandStage]
@[simp] theorem designBandStage_inputs (k : BitVec 4) (s : State) :
    (designBandStage k s).inputs = s.inputs := by simp [designBandStage]
@[simp] theorem designBandStage_rdata (k : BitVec 4) (s : State) :
    (designBandStage k s).rdata = s.rdata := by simp [designBandStage]
@[simp] theorem designBandStage_delay (k : BitVec 4) (s : State) :
    (designBandStage k s).delay = s.delay := by simp [designBandStage]
@[simp] theorem designBandStage_seq (k : BitVec 4) (s : State) :
    (designBandStage k s).seq = s.seq := by simp [designBandStage]
@[simp] theorem designBandStage_work_base (k : BitVec 4) (s : State) :
    (designBandStage k s).work.base = s.work.base := by simp [designBandStage]
@[simp] theorem designBandStage_work_len (k : BitVec 4) (s : State) :
    (designBandStage k s).work.len = s.work.len := by simp [designBandStage]

/-! ## `filtStage` -/

@[simp] theorem filtStage_cfg (s : State) :
    (filtStage s).cfg = s.cfg := by simp [filtStage]
@[simp] theorem filtStage_status (s : State) :
    (filtStage s).status = s.status := by simp [filtStage]
@[simp] theorem filtStage_par (s : State) :
    (filtStage s).par = s.par := by simp [filtStage]
@[simp] theorem filtStage_coef (s : State) :
    (filtStage s).coef = s.coef := by simp [filtStage]
@[simp] theorem filtStage_buf (s : State) :
    (filtStage s).buf = s.buf := by simp [filtStage]
@[simp] theorem filtStage_len (s : State) :
    (filtStage s).len = s.len := by simp [filtStage]
@[simp] theorem filtStage_draws (s : State) :
    (filtStage s).draws = s.draws := by simp [filtStage]
@[simp] theorem filtStage_inputs (s : State) :
    (filtStage s).inputs = s.inputs := by simp [filtStage]
@[simp] theorem filtStage_rdata (s : State) :
    (filtStage s).rdata = s.rdata := by simp [filtStage]
@[simp] theorem filtStage_work_base (s : State) :
    (filtStage s).work.base = s.work.base := by simp [filtStage]
@[simp] theorem filtStage_work_len (s : State) :
    (filtStage s).work.len = s.work.len := by simp [filtStage]

/-! ## `narrowStage` -/

@[simp] theorem narrowStage_cfg (s : State) :
    (narrowStage s).cfg = s.cfg := by simp [narrowStage]
@[simp] theorem narrowStage_status (s : State) :
    (narrowStage s).status = s.status := by simp [narrowStage]
@[simp] theorem narrowStage_par (s : State) :
    (narrowStage s).par = s.par := by simp [narrowStage]
@[simp] theorem narrowStage_coef (s : State) :
    (narrowStage s).coef = s.coef := by simp [narrowStage]
@[simp] theorem narrowStage_buf (s : State) :
    (narrowStage s).buf = s.buf := by simp [narrowStage]
@[simp] theorem narrowStage_len (s : State) :
    (narrowStage s).len = s.len := by simp [narrowStage]
@[simp] theorem narrowStage_draws (s : State) :
    (narrowStage s).draws = s.draws := by simp [narrowStage]
@[simp] theorem narrowStage_inputs (s : State) :
    (narrowStage s).inputs = s.inputs := by simp [narrowStage]
@[simp] theorem narrowStage_rdata (s : State) :
    (narrowStage s).rdata = s.rdata := by simp [narrowStage]
@[simp] theorem narrowStage_delay (s : State) :
    (narrowStage s).delay = s.delay := by simp [narrowStage]
@[simp] theorem narrowStage_work_base (s : State) :
    (narrowStage s).work.base = s.work.base := by simp [narrowStage]
@[simp] theorem narrowStage_work_len (s : State) :
    (narrowStage s).work.len = s.work.len := by simp [narrowStage]

/-! ## `resStage` -/

@[simp] theorem resStage_cfg (s : State) :
    (resStage s).cfg = s.cfg := by simp [resStage]
@[simp] theorem resStage_status (s : State) :
    (resStage s).status = s.status := by simp [resStage]
@[simp] theorem resStage_par (s : State) :
    (resStage s).par = s.par := by simp [resStage]
@[simp] theorem resStage_coef (s : State) :
    (resStage s).coef = s.coef := by simp [resStage]
@[simp] theorem resStage_buf (s : State) :
    (resStage s).buf = s.buf := by simp [resStage]
@[simp] theorem resStage_len (s : State) :
    (resStage s).len = s.len := by simp [resStage]
@[simp] theorem resStage_draws (s : State) :
    (resStage s).draws = s.draws := by simp [resStage]
@[simp] theorem resStage_inputs (s : State) :
    (resStage s).inputs = s.inputs := by simp [resStage]
@[simp] theorem resStage_rdata (s : State) :
    (resStage s).rdata = s.rdata := by simp [resStage]
@[simp] theorem resStage_work_base (s : State) :
    (resStage s).work.base = s.work.base := by simp [resStage]
@[simp] theorem resStage_work_len (s : State) :
    (resStage s).work.len = s.work.len := by simp [resStage]

/-! ## `bandStage` -/

@[simp] theorem bandStage_cfg (k : BitVec 4) (s : State) :
    (bandStage k s).cfg = s.cfg := by simp [bandStage]
@[simp] theorem bandStage_status (k : BitVec 4) (s : State) :
    (bandStage k s).status = s.status := by simp [bandStage]
@[simp] theorem bandStage_par (k : BitVec 4) (s : State) :
    (bandStage k s).par = s.par := by simp [bandStage]
@[simp] theorem bandStage_coef (k : BitVec 4) (s : State) :
    (bandStage k s).coef = s.coef := by simp [bandStage]
@[simp] theorem bandStage_buf (k : BitVec 4) (s : State) :
    (bandStage k s).buf = s.buf := by simp [bandStage]
@[simp] theorem bandStage_len (k : BitVec 4) (s : State) :
    (bandStage k s).len = s.len := by simp [bandStage]
@[simp] theorem bandStage_draws (k : BitVec 4) (s : State) :
    (bandStage k s).draws = s.draws := by simp [bandStage]
@[simp] theorem bandStage_inputs (k : BitVec 4) (s : State) :
    (bandStage k s).inputs = s.inputs := by simp [bandStage]
@[simp] theorem bandStage_rdata (k : BitVec 4) (s : State) :
    (bandStage k s).rdata = s.rdata := by simp [bandStage]
@[simp] theorem bandStage_work_base (k : BitVec 4) (s : State) :
    (bandStage k s).work.base = s.work.base := by simp [bandStage]
@[simp] theorem bandStage_work_len (k : BitVec 4) (s : State) :
    (bandStage k s).work.len = s.work.len := by simp [bandStage]

/-! ## `eqStage` -/

@[simp] theorem eqStage_cfg (s : State) :
    (eqStage s).cfg = s.cfg := by simp [eqStage, bandOrder]
@[simp] theorem eqStage_status (s : State) :
    (eqStage s).status = s.status := by simp [eqStage, bandOrder]
@[simp] theorem eqStage_par (s : State) :
    (eqStage s).par = s.par := by simp [eqStage, bandOrder]
@[simp] theorem eqStage_coef (s : State) :
    (eqStage s).coef = s.coef := by simp [eqStage, bandOrder]
@[simp] theorem eqStage_buf (s : State) :
    (eqStage s).buf = s.buf := by simp [eqStage, bandOrder]
@[simp] theorem eqStage_len (s : State) :
    (eqStage s).len = s.len := by simp [eqStage, bandOrder]
@[simp] theorem eqStage_draws (s : State) :
    (eqStage s).draws = s.draws := by simp [eqStage, bandOrder]
@[simp] theorem eqStage_inputs (s : State) :
    (eqStage s).inputs = s.inputs := by simp [eqStage, bandOrder]
@[simp] theorem eqStage_rdata (s : State) :
    (eqStage s).rdata = s.rdata := by simp [eqStage, bandOrder]
@[simp] theorem eqStage_work_base (s : State) :
    (eqStage s).work.base = s.work.base := by simp [eqStage, bandOrder]
@[simp] theorem eqStage_work_len (s : State) :
    (eqStage s).work.len = s.work.len := by simp [eqStage, bandOrder]

/-! ## `synthStage` -/

@[simp] theorem synthStage_cfg (s : State) :
    (synthStage s).cfg = s.cfg := by
  unfold synthStage
  cases eqEn s.par <;> cases resEn s.par <;> simp
@[simp] theorem synthStage_status (s : State) :
    (synthStage s).status = s.status := by
  unfold synthStage
  cases eqEn s.par <;> cases resEn s.par <;> simp
@[simp] theorem synthStage_par (s : State) :
    (synthStage s).par = s.par := by
  unfold synthStage
  cases eqEn s.par <;> cases resEn s.par <;> simp
@[simp] theorem synthStage_coef (s : State) :
    (synthStage s).coef = s.coef := by
  unfold synthStage
  cases eqEn s.par <;> cases resEn s.par <;> simp
@[simp] theorem synthStage_buf (s : State) :
    (synthStage s).buf = s.buf := by
  unfold synthStage
  cases eqEn s.par <;> cases resEn s.par <;> simp
@[simp] theorem synthStage_len (s : State) :
    (synthStage s).len = s.len := by
  unfold synthStage
  cases eqEn s.par <;> cases resEn s.par <;> simp
@[simp] theorem synthStage_draws (s : State) :
    (synthStage s).draws = s.draws := by
  unfold synthStage
  cases eqEn s.par <;> cases resEn s.par <;> simp
@[simp] theorem synthStage_inputs (s : State) :
    (synthStage s).inputs = s.inputs := by
  unfold synthStage
  cases eqEn s.par <;> cases resEn s.par <;> simp
@[simp] theorem synthStage_rdata (s : State) :
    (synthStage s).rdata = s.rdata := by
  unfold synthStage
  cases eqEn s.par <;> cases resEn s.par <;> simp

end Sys2Proof.Machine
end

