-- ==== Sys2Proof/Laws/Ops.lean ====
section
/-! SUPPORT. What the shared operations can do, once each: a whole run of a command, the start of one, the sequencer's
changes of phase, a host access. Cite these instead of unfolding the operations. -/

namespace Sys2Proof.Machine

/-- A command word always has an outcome, and it is a next state. -/
theorem runCommand_next (i : Instr) (f : State → State) (s : State) :
    ∃ t, runCommand i f s = .next t := by
  unfold runCommand
  split
  · exact ⟨_, rfl⟩
  · split <;> exact ⟨_, rfl⟩

/-- A run of a command word is dropped, is rejected, or is accepted and completes. -/
theorem runCommand_cases {i : Instr} {f : State → State} {s t : State} (h : runCommand i f s = .next t) :
    (s.status.busy = true ∧ t = s) ∨
      (s.status.busy = false ∧ ∃ e, argCheck s.cfg s.par i = some e ∧ t = reject e s) ∨
      (s.status.busy = false ∧ argCheck s.cfg s.par i = none ∧ t = complete (f (accept i s))) := by
  unfold runCommand at h
  split at h
  · exact .inl ⟨‹_›, (Host.Outcome.next.inj h).symm⟩
  · have hb : s.status.busy = false := by simpa using ‹¬ s.status.busy = true›
    split at h
    · exact .inr (.inl ⟨hb, _, ‹_›, (Host.Outcome.next.inj h).symm⟩)
    · exact .inr (.inr ⟨hb, ‹_›, (Host.Outcome.next.inj h).symm⟩)

theorem runCommand_accepted {i : Instr} {s : State} (f : State → State) (hb : s.status.busy = false)
    (hc : argCheck s.cfg s.par i = none) : runCommand i f s = .next (complete (f (accept i s))) := by
  simp [runCommand, hb, hc]

theorem runCommand_rejected {i : Instr} {s : State} {e : ErrCode} (f : State → State)
    (hb : s.status.busy = false) (hc : argCheck s.cfg s.par i = some e) :
    runCommand i f s = .next (reject e s) := by
  simp [runCommand, hb, hc]

theorem runCommand_dropped (i : Instr) {s : State} (f : State → State) (hb : s.status.busy = true) :
    runCommand i f s = .next s := by
  simp [runCommand, hb]

/-- The effect each instruction has between acceptance and completion. -/
def effectOf : Instr → State → State
  | .gen => genStage
  | .dsgnRes => designResStage
  | .dsgnEq k => designBandStage k
  | .filt => filtStage
  | .narrow => narrowStage
  | .res => resStage
  | .equalize => eqStage
  | .synth => synthStage

/-- Every arm of `exec` is a run of its command. -/
theorem exec_eq_runCommand (i : Instr) (s : State) : exec i s = runCommand i (effectOf i) s := by
  cases i <;> rfl

theorem exec_next (i : Instr) (s : State) : ∃ t, exec i s = .next t := by
  rw [exec_eq_runCommand]
  exact runCommand_next _ _ _

/-- The start of a command: dropped, rejected or accepted. -/
theorem startCommand_cases (i : Instr) (s : State) :
    (s.status.busy = true ∧ startCommand i s = s) ∨
      (s.status.busy = false ∧ ∃ e, argCheck s.cfg s.par i = some e ∧ startCommand i s = reject e s) ∨
      (s.status.busy = false ∧ argCheck s.cfg s.par i = none ∧ startCommand i s = accept i s) := by
  unfold startCommand
  split
  · exact .inl ⟨‹_›, rfl⟩
  · have hb : s.status.busy = false := by simpa using ‹¬ s.status.busy = true›
    split
    · exact .inr (.inl ⟨hb, _, ‹_›, rfl⟩)
    · exact .inr (.inr ⟨hb, ‹_›, rfl⟩)

/-- Where a finished loop or design goes: the next loop from index 0, the next design, or completion; each keeps the
private copy. -/
theorem leaveEqualizer_cases (s : State) :
    leaveEqualizer s = complete s ∨
      (s.seq.opc = 8#4 ∧ resEn s.par = true ∧ leaveEqualizer s = enterDesign (setStage .res s)) := by
  unfold leaveEqualizer
  split
  · exact .inr ⟨‹_ ∧ _›.1, ‹_ ∧ _›.2, rfl⟩
  · exact .inl rfl

theorem leaveGen_cases (s : State) :
    leaveGen s = leaveEqualizer s ∨
      (s.seq.opc = 8#4 ∧ eqEn s.par = true ∧ leaveGen s = enterDesign (setBand 0#4 (setStage .eq s))) := by
  unfold leaveGen
  split
  · exact .inr ⟨‹_ ∧ _›.1, ‹_ ∧ _›.2, rfl⟩
  · exact .inl rfl

theorem leaveDesign_cases (s : State) :
    ((s.seq.opc = 2#4 ∨ s.seq.opc = 3#4) ∧ leaveDesign s = complete s) ∨
      (s.seq.opc ≠ 2#4 ∧ s.seq.opc ≠ 3#4 ∧ leaveDesign s = enterFilt s) := by
  unfold leaveDesign
  split
  · exact .inl ⟨‹_›, rfl⟩
  · exact .inr ⟨by tauto, by tauto, rfl⟩

theorem leaveFilt_cases (s : State) :
    (inEqualizer s.seq = true ∧ leaveFilt s = enterNarrow s) ∨
      (inEqualizer s.seq = false ∧ leaveFilt s = complete s) := by
  unfold leaveFilt
  split
  · exact .inl ⟨‹_›, rfl⟩
  · exact .inr ⟨by simpa using ‹¬ inEqualizer s.seq = true›, rfl⟩

theorem leaveNarrow_cases (s : State) :
    (inEqualizer s.seq = false ∧ leaveNarrow s = complete s) ∨
      (inEqualizer s.seq = true ∧ s.seq.k.toNat < 9 ∧
        leaveNarrow s = enterDesign (setBand (s.seq.k + 1#4) s)) ∨
      (inEqualizer s.seq = true ∧ 9 ≤ s.seq.k.toNat ∧ leaveNarrow s = leaveEqualizer s) := by
  unfold leaveNarrow
  split
  · split
    · exact .inr (.inl ⟨‹_›, ‹_›, rfl⟩)
    · exact .inr (.inr ⟨‹_›, by omega, rfl⟩)
  · exact .inl ⟨by simpa using ‹¬ inEqualizer s.seq = true›, rfl⟩

/-- One transaction: a read; a write dropped while busy; a command word, illegal, started or run; a stored write. -/
theorem hostAccess_cases {t : Transaction} {overlap : Bool} {s s' : State}
    (h : hostAccess t overlap s = .next s') :
    (t.we = false ∧ s' = hostRead t s) ∨
      (t.we = true ∧ s.status.busy = true ∧ s' = s) ∨
      (t.we = true ∧ s.status.busy = false ∧ isCommand t = false ∧ s' = hostStore t s) ∨
      (t.we = true ∧ s.status.busy = false ∧ isCommand t = true ∧
        ((∃ e, decode (commandWord t) = .error e ∧ s' = reject .illegalCmd s) ∨
          (∃ i, decode (commandWord t) = .ok i ∧ overlap = true ∧ s' = startCommand i s) ∨
          (∃ i, decode (commandWord t) = .ok i ∧ overlap = false ∧ exec i s = .next s'))) := by
  unfold hostAccess at h
  split at h
  · exact .inl ⟨‹_›, (Host.Outcome.next.inj h).symm⟩
  · have hw : t.we = true := by simpa using ‹¬ t.we = false›
    split at h
    · exact .inr (.inl ⟨hw, ‹_›, (Host.Outcome.next.inj h).symm⟩)
    · have hb : s.status.busy = false := by simpa using ‹¬ s.status.busy = true›
      split at h
      · refine .inr (.inr (.inr ⟨hw, hb, ‹_›, ?_⟩))
        unfold presentWord at h
        split at h
        · exact .inl ⟨_, ‹_›, (Host.Outcome.next.inj h).symm⟩
        · cases overlap with
          | true => exact .inr (.inl ⟨_, ‹_›, rfl, (Host.Outcome.next.inj h).symm⟩)
          | false => exact .inr (.inr ⟨_, ‹_›, rfl, h⟩)
      · exact .inr (.inr (.inl ⟨hw, hb, by simpa using ‹¬ isCommand t = true›,
          (Host.Outcome.next.inj h).symm⟩))

theorem hostAccess_next (t : Transaction) (overlap : Bool) (s : State) :
    ∃ s', hostAccess t overlap s = .next s' := by
  unfold hostAccess presentWord
  split
  · exact ⟨_, rfl⟩
  · split
    · exact ⟨_, rfl⟩
    · split
      · split
        · exact ⟨_, rfl⟩
        · split
          · exact ⟨_, rfl⟩
          · exact exec_next _ _
      · exact ⟨_, rfl⟩

end Sys2Proof.Machine
end

