-- ==== Sys2Proof/Laws/PerInstr.lean ====
section
/-! SUPPORT. The family `TableRow`: the word of a well-formed instruction lies in its row of the opcode table, that is, under
the row's mask it is the row's match value (30_encoding.md rule R84). One lemma per constructor. -/

namespace Sys2Proof.Laws.TableRow

/-- The instruction's word selects its row of the opcode table. -/
def Statement (i : Instr) : Prop := i.wf = true → encode i &&& i.mask = i.matchWord

theorem gen : Statement .gen := by unfold Statement; decide

theorem dsgnRes : Statement .dsgnRes := by unfold Statement; decide

theorem dsgnEq (k : BitVec 4) : Statement (.dsgnEq k) := by
  intro _
  revert k
  decide

theorem filt : Statement .filt := by unfold Statement; decide

theorem narrow : Statement .narrow := by unfold Statement; decide

theorem res : Statement .res := by unfold Statement; decide

theorem equalize : Statement .equalize := by unfold Statement; decide

theorem synth : Statement .synth := by unfold Statement; decide

end Sys2Proof.Laws.TableRow
end

