-- ==== Sys2Proof/Laws/Step.lean ====
section
/-! SUPPORT. What one step can do: the oldest host event, or a turn of the sequencer. -/

namespace Sys2Proof.Machine

@[simp] theorem step_no_event {s : State} (h : s.inputs = []) : step s = .next (sequencerStep s) := by
  simp [step, h]

theorem step_event {s : State} {e : HostEvent} {rest : List HostEvent} (h : s.inputs = e :: rest) :
    step s = hostEvent e { s with inputs := rest } := by
  simp [step, h]

theorem step_access {s : State} {t : Transaction} {overlap : Bool} {rest : List HostEvent}
    (h : s.inputs = .access t overlap :: rest) :
    step s = hostAccess t overlap { s with inputs := rest } := by
  rw [step_event h]; rfl

theorem step_sequencer {s : State} {rest : List HostEvent} (h : s.inputs = .sequencer :: rest) :
    step s = .next (sequencerStep { s with inputs := rest }) := by
  rw [step_event h]; rfl

theorem step_reset {s : State} {rest : List HostEvent} (h : s.inputs = .reset :: rest) :
    step s = .next (resetState { s with inputs := rest }) := by
  rw [step_event h]; rfl

theorem step_wait {s : State} {rest : List HostEvent} (h : s.inputs = .wait :: rest) :
    step s = .next (hostPoll { s with inputs := rest }) := by
  rw [step_event h]; rfl

/-- A poll of `STATUS` reads its bit 0, `BUSY` (rule R23). -/
theorem statusRead_busy (s : State) : (readData s statusRead).getLsbD 0 = s.status.busy := by
  have h : readData s statusRead = statusWord s.status := by
    simp [readData, statusRead, spaceOf, regRead, regAt, regReadBusy, regReadIdle]
  rw [h]
  obtain ⟨busy, done, err, errCode⟩ := s.status
  revert busy done err errCode
  decide

/-- A poll of `wait`: while busy the sequencer takes a turn and the host goes on waiting; idle, the wait is over. -/
theorem hostPoll_cases (s : State) :
    (s.status.busy = true ∧
        hostPoll s = { sequencerStep (hostRead statusRead s) with
          inputs := .wait :: (sequencerStep (hostRead statusRead s)).inputs }) ∨
      (s.status.busy = false ∧ hostPoll s = hostRead statusRead s) := by
  unfold hostPoll
  rw [statusRead_busy]
  split
  · exact .inl ⟨‹_›, rfl⟩
  · exact .inr ⟨by simpa using ‹¬ s.status.busy = true›, rfl⟩

/-- The block never stops (93_implementation_defined.md: no behaviour is `stuck`). -/
theorem step_next (s : State) : ∃ t, step s = .next t := by
  unfold step
  split
  · exact ⟨_, rfl⟩
  · unfold hostEvent
    split
    · exact hostAccess_next _ _ _
    all_goals exact ⟨_, rfl⟩

/-- One step: with no event a turn of the sequencer; else the event at the head. -/
theorem step_cases {s t : State} (h : step s = .next t) :
    (s.inputs = [] ∧ t = sequencerStep s) ∨
      (∃ rest, s.inputs = .sequencer :: rest ∧ t = sequencerStep { s with inputs := rest }) ∨
      (∃ rest, s.inputs = .reset :: rest ∧ t = resetState { s with inputs := rest }) ∨
      (∃ rest, s.inputs = .wait :: rest ∧ t = hostPoll { s with inputs := rest }) ∨
      (∃ tr overlap rest, s.inputs = .access tr overlap :: rest ∧
        hostAccess tr overlap { s with inputs := rest } = .next t) := by
  cases hi : s.inputs with
  | nil => rw [step_no_event hi] at h; exact .inl ⟨rfl, (Host.Outcome.next.inj h).symm⟩
  | cons e rest =>
    cases e with
    | access tr overlap => rw [step_access hi] at h; exact .inr (.inr (.inr (.inr ⟨tr, overlap, rest, rfl, h⟩)))
    | sequencer =>
      rw [step_sequencer hi] at h; exact .inr (.inl ⟨rest, rfl, (Host.Outcome.next.inj h).symm⟩)
    | reset =>
      rw [step_reset hi] at h; exact .inr (.inr (.inl ⟨rest, rfl, (Host.Outcome.next.inj h).symm⟩))
    | wait =>
      rw [step_wait hi] at h; exact .inr (.inr (.inr (.inl ⟨rest, rfl, (Host.Outcome.next.inj h).symm⟩)))

end Sys2Proof.Machine
end

