-- ==== Sys2Proof/Machine/Script.lean ====
section
/-! DEFINITION. The host-script notation of 30_encoding.md rules R87 and R88, as lists of host events, and the arguments of
the document's entry point as register writes (47_synthesis_pipeline.md rule R195). Nothing in the machine reads these:
they are how a host program is written down as an input list. -/

namespace Sys2Proof.Machine

/-- The lines of a host script (rules R87, R88). -/
inductive Line where
  /-- `wr NAME, v` -/
  | wr (r : RegName) (v : BitVec 64)
  /-- `rd NAME` -/
  | rd (r : RegName)
  /-- `wrb i, v` -/
  | wrb (i : BitVec 32) (v : BitVec 64)
  /-- `rdb i` -/
  | rdb (i : BitVec 32)
  /-- `rdo i` -/
  | rdo (i : BitVec 32)
  /-- one of the eight command lines; `overlap` as in `HostEvent.access` -/
  | command (i : Instr) (overlap : Bool)
  /-- `wait` -/
  | wait
  /-- `run <cmd>`; `overlap` as in `HostEvent.access` -/
  | run (i : Instr) (overlap : Bool)
  /-- `ctrl wave=w, eq=e, res=r, cnt=n` -/
  | ctrl (wave : BitVec 2) (eq res : Bool) (cnt : BitVec 4)
  /-- `ldbuf v0, v1, ...` -/
  | ldbuf (vs : List (BitVec 64))
  /-- `gains g0, ..., g9` -/
  | gains (gs : Vector (BitVec 64) 10)
  /-- `coef b0, b1, b2, a0, a1, a2` -/
  | coef (b0 b1 b2 a0 a1 a2 : BitVec 64)
  deriving DecidableEq, Repr

/-- `MemWrite(REG, number of NAME, v)` (rule R87). -/
def writeReg (r : RegName) (v : BitVec 64) : HostEvent :=
  .access { space := 0#2, addr := BitVec.ofNat 32 (regNumber r), we := true, wdata := v } false

/-- `MemRead(REG, number of NAME)` (rule R87). -/
def readReg (r : RegName) : HostEvent :=
  .access { space := 0#2, addr := BitVec.ofNat 32 (regNumber r), we := false, wdata := 0#64 } false

/-- `MemWrite(BUF, i, v)` (rule R87). -/
def writeBuf (i : BitVec 32) (v : BitVec 64) : HostEvent :=
  .access { space := 1#2, addr := i, we := true, wdata := v } false

/-- `MemRead(BUF, i)` (rule R87). -/
def readBuf (i : BitVec 32) : HostEvent :=
  .access { space := 1#2, addr := i, we := false, wdata := 0#64 } false

/-- `MemRead(OUT, i)` (rule R87). -/
def readOut (i : BitVec 32) : HostEvent :=
  .access { space := 2#2, addr := i, we := false, wdata := 0#64 } false

/-- The word `w + 4 x e + 8 x r + 16 x n` of a `ctrl` line (rule R88). -/
def ctrlWord (wave : BitVec 2) (eq res : Bool) (cnt : BitVec 4) : BitVec 64 :=
  BitVec.ofNat 64 (wave.toNat + 4 * eq.toNat + 8 * res.toNat + 16 * cnt.toNat)

/-- `wrb i, v0`; `wrb i+1, v1`; ... -/
def writeBufFrom : Nat → List (BitVec 64) → List HostEvent
  | _, [] => []
  | i, v :: vs => writeBuf (BitVec.ofNat 32 i) v :: writeBufFrom (i + 1) vs

/-- The host events of one line (rules R87, R88). -/
def expandLine : Line → List HostEvent
  | .wr r v => [writeReg r v]
  | .rd r => [readReg r]
  | .wrb i v => [writeBuf i v]
  | .rdb i => [readBuf i]
  | .rdo i => [readOut i]
  | .command i overlap => [.access (commandWrite (encode i)) overlap]
  | .wait => [.wait]
  | .run i overlap => [.access (commandWrite (encode i)) overlap, .wait]
  | .ctrl wave eq res cnt => [writeReg .ctrl (ctrlWord wave eq res cnt)]
  | .ldbuf vs => writeBufFrom 0 vs ++ [writeReg .len (BitVec.ofNat 64 vs.length)]
  | .gains gs => (List.finRange 10).map fun k => writeReg (.gain k) gs[k]
  | .coef b0 b1 b2 a0 a1 a2 =>
    [writeReg (.coef .b0) b0, writeReg (.coef .b1) b1, writeReg (.coef .b2) b2,
      writeReg (.coef .a0) a0, writeReg (.coef .a1) a1, writeReg (.coef .a2) a2]

/-- The host events of a script. -/
def expandScript (ls : List Line) : List HostEvent := ls.flatMap expandLine

/-- The arguments of `synthesize` (rule R195). -/
structure SynthArgs where
  waveType : BitVec 2
  frequencyHz : BitVec 64
  amplitude : BitVec 64
  durationSec : BitVec 64
  sampleRateHz : BitVec 32
  equalizerEnabled : Bool
  equalizerGains : Vector (BitVec 64) 10
  gainCount : BitVec 4
  resonatorEnabled : Bool
  cutoffFrequencyHz : BitVec 64
  resonanceQ : BitVec 64
  deriving DecidableEq, Repr

/-- The call `synthesize(...)` as a host script (rule R195): each argument into its register, then `SYNTH`. -/
def synthesizeScript (a : SynthArgs) : List Line :=
  [.wr .rate (a.sampleRateHz.setWidth 64), .wr .freq a.frequencyHz, .wr .amp a.amplitude,
    .wr .dur a.durationSec, .wr .cutoff a.cutoffFrequencyHz, .wr .resq a.resonanceQ, .gains a.equalizerGains,
    .ctrl a.waveType a.equalizerEnabled a.resonatorEnabled a.gainCount, .run .synth true]

end Sys2Proof.Machine
end

