-- ==== Sys2Proof/Tests/Slice0.lean ====
section
/-! SUPPORT. Tests. Expected values are those of 95_test_vectors.md (the vector is named) or of the rule named. After them,
for every obligation with hypotheses, a theorem `witness_<Name>` with a state and operands that meet them. -/

namespace Sys2Proof.Tests

open Sys2Proof Sys2Proof.Machine

/-! ## Small states -/

/-- An instance with eight buffer entries. -/
def small (form : BiquadForm) : Config := { Config.reference with bufDepth := 8, biquadForm := form }

/-- Its reset state. -/
def idle8 : State := State.resetOf (small .df1)

/-- `w` for each pattern. -/
def words (bs : List (BitVec 64)) : List W := bs.map W.pat

/-- An idle state with an input buffer. -/
def loaded (form : BiquadForm) (c : Coef) (bs : List (BitVec 64)) : State :=
  { State.resetOf (small form) with
    buf := Memory.writeList [] 0 (words bs)
    len := BitVec.ofNat 32 bs.length
    coef := c }

/-- The coefficients of V51. -/
def coef51 : Coef where
  b0 := .pat 0x3FE0000000000000#64
  b1 := .pat 0x3FD0000000000000#64
  b2 := .pat 0x3FC0000000000000#64
  a0 := .pat 0x401C000000000000#64
  a1 := .pat 0xBFE0000000000000#64
  a2 := .pat 0x3FD0000000000000#64

/-- The input of V50: 1, 2, 3, 4, 0, 0. -/
def input50 : List (BitVec 64) :=
  [0x3FF0000000000000#64, 0x4000000000000000#64, 0x4008000000000000#64, 0x4010000000000000#64, 0#64, 0#64]

/-- The parameters of V10 with other `CTRL`, `RATE` and `DUR`. -/
def params (ctrl : BitVec 8) (rate : BitVec 32) (dur : BitVec 64) : Params :=
  { Params.reset Config.reference with
    ctrl := ctrl, rate := rate, dur := dur
    freq := 0x3FF0000000000000#64, amp := 0x3FF0000000000000#64 }

/-- `idle8` with those parameters. -/
def ready (ctrl : BitVec 8) (rate : BitVec 32) (dur : BitVec 64) : State :=
  { idle8 with par := params ctrl rate dur }

/-- A filter pass in progress. -/
def running : State := startCommand .filt (loaded .df1 coef51 input50)

/-- A transaction. -/
def access (space : BitVec 2) (addr : BitVec 32) (we : Bool) (wdata : BitVec 64) : Transaction where
  space := space
  addr := addr
  we := we
  wdata := wdata

/-- The state an outcome goes on with. -/
def after (s : State) : Host.Outcome State Fault Refusal → State
  | .next t => t
  | .fault _ => s
  | .refused _ => s

/-- The state after a command. -/
def done (i : Instr) (s : State) : State := after s (exec i s)

/-- The state after a step. -/
def stepped (s : State) : State := after s (step s)

theorem step_stepped (s : State) : step s = .next (stepped s) := by
  obtain ⟨t, h⟩ := step_next s
  simp [stepped, after, h]

/-! ## Well-formedness and decoding -/

theorem test_wf_refuses_band_10 : (Instr.dsgnEq 10#4).wf = false := by decide

theorem test_wf_refuses_band_15 : (Instr.dsgnEq 15#4).wf = false := by decide

theorem test_wf_accepts_band_9 : (Instr.dsgnEq 9#4).wf = true := by decide

theorem test_decode_gen : decodeTableWord 32 0b0001 = some .gen := by decide

theorem test_decode_dsgn_res : decodeTableWord 32 0b0010 = some .dsgnRes := by decide

theorem test_decode_dsgn_eq : decodeTableWord 32 0b01110011 = some (.dsgnEq 7#4) := by decide

theorem test_decode_filt : decodeTableWord 32 0b0100 = some .filt := by decide

theorem test_decode_narrow : decodeTableWord 32 0b0101 = some .narrow := by decide

theorem test_decode_res : decodeTableWord 32 0b0110 = some .res := by decide

theorem test_decode_eq : decodeTableWord 32 0b0111 = some .equalize := by decide

theorem test_decode_synth : decodeTableWord 32 0b1000 = some .synth := by decide

/-- V142 to V145. -/
theorem test_decode_illegal :
    [0xA3, 0xF3, 0x0, 0x9, 0xF, 0x11, 0x94, 0x101, 0x80000001].map (decodeTableWord 32) =
      List.replicate 9 none := by decide

/-- V146: only the low 32 bits of the write data are the command word. -/
theorem test_command_word_is_low_half :
    commandWord (access 0#2 0#32 true 0xFFFFFFFF00000001#64) = encode .gen := by decide

/-- The first step after `withFetchWord` runs the word: `EQ` after reset is rejected with code 4 (rule R232). -/
theorem test_first_step_runs_the_word :
    (stepped (State.reset.withFetchWord 32 0x7)).status = statusError .gainCount := by decide +kernel

/-! ## Arithmetic -/

/-- Rule R101: `44100 x 0.7` is just below 30870. -/
theorem test_length_uses_floor :
    floorInt (mulW (toW 44100) (.pat 0x3FE6666666666666#64)) = some 30869 := by decide +kernel

/-- Rule R12: `1 (-) 2^-53` and the least subnormal halved, a tie to zero. -/
theorem test_rounding :
    subW wOne (.pat 0x3CA0000000000000#64) = .pat 0x3FEFFFFFFFFFFFFF#64 ∧
      mulW (.pat 1#64) wHalf = .pat 0#64 ∧ divW wOne (.pat 0x8000000000000000#64) = .pat 0xFFF0000000000000#64 := by
  decide +kernel

/-- V70, V72, V76, V77, V81, V83: `OUT` patterns of the nearest mode. -/
theorem test_narrow_nearest :
    (words [0x3FB999999999999A#64, 0x3FF0000030000000#64, 0x47EFFFFFEFFFFFFF#64, 0x47EFFFFFF0000000#64,
        0x3690000000000000#64, 0xB58DEE7A4AD4B81F#64]).map (narrow .rne) =
      [.pat 0x3DCCCCCD#32, .pat 0x3F800002#32, .pat 0x7F7FFFFF#32, .pat 0x7F800000#32, .pat 0#32,
        .pat 0x80000000#32] := by decide +kernel

/-- Rule R14, mode RTZ: truncation, and saturation at the largest finite value. -/
theorem test_narrow_toward_zero :
    (words [0x3FB999999999999A#64, 0xFE37E43C8800759C#64]).map (narrow .rtz) =
      [.pat 0x3DCCCCCC#32, .pat 0xFF7FFFFF#32] := by decide +kernel

/-! ## The commands -/

/-- V10. -/
theorem test_gen_sawtooth :
    let t := done .gen (ready 2#8 4#32 0x3FF0000000000000#64)
    t.len = 4#32 ∧ t.buf = Memory.writeList [] 0 (words [0#64, 0x3FE0000000000000#64, 0xBFF0000000000000#64,
      0xBFE0000000000000#64]) := by decide +kernel

/-- V120. -/
theorem test_gen_rejects_wave_type :
    statusWord (done .gen (ready 3#8 4#32 0#64)).status = 0x14#64 := by decide +kernel

/-- V20, with a sine and a cosine that are right at `fl(π/2)`. -/
theorem test_design_res :
    designRes { sin := fun _ => wOne, cos := fun _ => .pat 0x3C91A62633145C07#64, pow10 := fun _ => wOne } false
        (.pat 0x40B5888000000000#64) wOne 44100 =
      { b0 := .pat 0x3FE5555555555555#64, b1 := .pat 0xBCA1A62633145C07#64, b2 := .pat 0x3FE5555555555555#64
        a0 := .pat 0x3FF8000000000000#64, a1 := .pat 0xBCA1A62633145C07#64, a2 := .pat 0x3FE0000000000000#64 } := by
  decide +kernel

/-- V135: `DSGN_RES` makes no check. -/
theorem test_dsgn_res_checks_nothing :
    (done .dsgnRes (ready 3#8 0#32 0xBFF0000000000000#64)).status = statusDone := by decide +kernel

/-- V40, band 4, with a `POW10` that is right at zero. -/
theorem test_design_eq :
    designEq { sin := fun _ => wOne, cos := fun _ => wOne, pow10 := fun _ => wOne } (fcW 4#4) (.pat 0#64) 44100 =
      { b0 := .pat 0x3F91036052382589#64, b1 := .pat 0x3FA1036052382589#64, b2 := .pat 0x3F91036052382589#64
        a0 := wOne, a1 := .pat 0xBFF9A8CEB3AAEBA7#64, a2 := .pat 0x3FE57209719CDC01#64 } := by
  decide +kernel

/-- V40, band 9: the coefficients that do not depend on `POW10`, written to `COEF`. -/
theorem test_dsgn_eq :
    let t := done (.dsgnEq 9#4) (ready 0#8 44100#32 0#64)
    t.coef.a1 = .pat 0x3FEC82BC2A8BD92D#64 ∧ t.coef.a2 = .pat 0x3FD43236BC7566CD#64 := by decide +kernel

/-- V51. -/
theorem test_filt :
    (done .filt (loaded .df1 coef51 input50)).buf = Memory.writeList [] 0
      (words [0x3FE0000000000000#64, 0x3FF8000000000000#64, 0x4006000000000000#64, 0x4010000000000000#64,
        0x4005800000000000#64, 0x3FEB000000000000#64]) := by decide +kernel

/-- V61: the three forms round differently, at sample 4. -/
theorem test_filter_forms :
    let c : Coef :=
      { b0 := .pat 0x3FEF2002A7D2F846#64, b1 := .pat 0xBFFEB5A8D285FE8F#64, b2 := .pat 0x3FEF2002A7D2F846#64
        a0 := .pat 0x3FF07324A2FD4857#64, a1 := .pat 0xBFFEB5A8D285FE8F#64, a2 := .pat 0x3FEF19B6BA056F53#64 }
    let xs := words [0x3FB999999999999A#64, 0x3FC999999999999A#64, 0x3FD3333333333334#64, 0x3FD999999999999A#64,
      0x3FE0000000000000#64]
    ([.df1, .df2, .tdf2].map fun f => (filterPass f c xs)[4]?) =
      [some (.pat 0x3FDA9349749C0AA5#64), some (.pat 0x3FDA9349749C0AAE#64), some (.pat 0x3FDA9349749C0AA6#64)] := by
  decide +kernel

/-- V70. -/
theorem test_narrow :
    (done .narrow (loaded .df1 Coef.zero [0x3FB999999999999A#64])).buf = [(0, .pat 0x3FB99999A0000000#64)] := by
  decide +kernel

/-- V86, a NaN the host wrote: a NaN results, and the host reads some NaN pattern. -/
theorem test_narrow_nan :
    (done .narrow (loaded .df1 Coef.zero [0x7FF8000000000001#64])).buf = [(0, .nan)] := by decide +kernel

/-- V90: the pass of `RES`, not narrowed. -/
theorem test_resonator_pass :
    filterPass .df1
        { b0 := .pat 0x3FE5555555555555#64, b1 := .pat 0xBCA1A62633145C07#64, b2 := .pat 0x3FE5555555555555#64
          a0 := .pat 0x3FF8000000000000#64, a1 := .pat 0xBCA1A62633145C07#64, a2 := .pat 0x3FE0000000000000#64 }
        [wOne, wOne, wOne, wMinusOne] =
      words [0x3FE5555555555555#64, 0x3FE5555555555555#64, 0x3FEFFFFFFFFFFFFE#64, 0xBFD5555555555555#64] := by
  decide +kernel

/-- Rule R170: with `LEN = 0` no sample is touched. -/
theorem test_res_empty :
    let t := done .res idle8
    t.status = statusDone ∧ t.buf = [] ∧ t.len = 0#32 := by decide +kernel

/-- V134. -/
theorem test_eq_rejects_gain_count : statusWord (done .equalize idle8).status = 0x44#64 := by decide +kernel

/-- Rule R186: band 9's set is in `COEF` afterwards. -/
theorem test_eq_leaves_band_9 :
    let t := done .equalize (ready 0xA0#8 44100#32 0#64)
    t.status = statusDone ∧ t.coef.a1 = .pat 0x3FEC82BC2A8BD92D#64 := by decide +kernel

/-- V132: nothing is generated. -/
theorem test_synth_rejects_whole :
    let s := ready 0x96#8 4#32 0x3FF0000000000000#64
    done .synth s = { s with status := statusError .gainCount } := by decide +kernel

/-- Rule R201 on V10. -/
theorem test_synth_without_stages :
    (done .synth (ready 2#8 4#32 0x3FF0000000000000#64)).buf =
      (done .gen (ready 2#8 4#32 0x3FF0000000000000#64)).buf := by decide +kernel

/-- Rule R236 on V51: five micro-steps leave the visible buffer alone, the seventh publishes the result. -/
theorem test_micro_steps :
    (sequencerRun 5 running).buf = running.buf ∧
      sequencerRun 7 running = done .filt (loaded .df1 coef51 input50) := by decide +kernel

/-- Rules R24, R87, R88: the line `ctrl wave=saw, eq=1, res=0, cnt=10` writes `0xA6`. -/
theorem test_ctrl_line :
    expandLine (.ctrl 2#2 true false 10#4) = [.access (access 0#2 2#32 true 0xA6#64) false] := by decide

/-- Rule R88: `run filt` polls until the command has completed; the last word read is `0x02`, the buffer that of V51. -/
theorem test_run_waits_for_completion :
    let s := { loaded .df1 coef51 input50 with inputs := expandLine (.run .filt true) }
    let t := after s (stepRun 9 s)
    t.inputs = [] ∧ t.rdata = 0x02#64 ∧ t.buf = (done .filt (loaded .df1 coef51 input50)).buf ∧
      (after s (stepRun 8 s)).inputs = [.wait] := by decide +kernel

/-! ## Witnesses of the hypotheses of the obligations -/

theorem idle8_inv : idle8.Inv :=
  ⟨by decide, by decide, by decide, by decide, by decide, by decide, by decide⟩

theorem running_inv : running.Inv :=
  ⟨by decide +kernel, by decide +kernel, by decide +kernel, by decide +kernel, by decide +kernel, by decide +kernel,
    fun _ => by decide +kernel⟩

/-- `idle8` with one event waiting. -/
def waiting (e : HostEvent) : State := { idle8 with inputs := [e] }

theorem witness_StepRunsTheDecodedCommand :
    let t := access 0#2 0#32 true 0x93#64
    (waiting (.access t false)).inputs = .access t false :: [] ∧ t.we = true ∧ t.space = 0#2 ∧ t.addr = 0#32 ∧
      (waiting (.access t false)).status.busy = false ∧ decode (t.wdata.setWidth 32) = .ok (.dsgnEq 9#4) :=
  ⟨rfl, rfl, rfl, rfl, rfl, rfl⟩

theorem witness_RejectionChangesOnlyStatus :
    let t := access 0#2 0#32 true 0xA3#64
    let u := access 0#2 0#32 true 0x07#64
    t.we = true ∧ t.space = 0#2 ∧ t.addr = 0#32 ∧ (waiting (.access t true)).status.busy = false ∧
      decode (t.wdata.setWidth 32) = .error .bandOutOfRange ∧
      u.we = true ∧ u.space = 0#2 ∧ u.addr = 0#32 ∧ decode (u.wdata.setWidth 32) = .ok .equalize ∧
      argCheck idle8.cfg idle8.par .equalize = some .gainCount :=
  ⟨rfl, rfl, rfl, rfl, rfl, rfl, rfl, rfl, rfl, by decide⟩

theorem witness_AcceptedCommandIsBusy :
    let t := access 0#2 0#32 true 0x04#64
    (waiting (.access t true)).inputs = .access t true :: [] ∧ t.we = true ∧ t.space = 0#2 ∧ t.addr = 0#32 ∧
      (waiting (.access t true)).status.busy = false ∧ decode (t.wdata.setWidth 32) = .ok .filt ∧
      argCheck idle8.cfg idle8.par .filt = none :=
  ⟨rfl, rfl, rfl, rfl, rfl, rfl, rfl⟩

theorem witness_ResetAbandonsTheRun :
    let s := { running with inputs := [.reset] }
    s.inputs = .reset :: [] ∧ s.status.busy = true := ⟨rfl, by decide +kernel⟩

theorem witness_ResetHasTheInvariant :
    ({ Config.reference with bufDepth := 1 }).wf = true ∧ ({ Config.reference with bufDepth := 2 ^ 31 }).wf = true ∧
      ({ Config.reference with defaultRate := 1#32 }).wf = true := by decide

theorem witness_EveryStepKeepsTheInvariant :
    running.Inv ∧ step running = .next (stepped running) := ⟨running_inv, step_stepped running⟩

theorem witness_ReachableStatesHaveTheInvariant :
    (small .df1).wf = true ∧ Reachable (State.resetOf (small .df1)) (stepped idle8) :=
  ⟨by decide, .stepped idle8 _ .start (step_stepped idle8)⟩

theorem witness_WritesWhileBusyAreDropped :
    running.status.busy = true ∧ (access 0#2 0#32 true 1#64).we = true := by decide +kernel

/-- The clauses at `STATUS`, at an unmapped number and at a register no command writes. -/
theorem witness_ReadsWhileBusyOfStableRegisters :
    running.Inv ∧ running.status.busy = true ∧ (access 0#2 1#32 false 0#64).we = false ∧
      (access 0#2 1#32 false 0#64).space = 0#2 ∧ regAt 0x01 = some .status ∧ regAt 0x3A = none ∧
      regAt 0x19 = some (.gain 9) ∧ RegName.gain 9 ≠ .len ∧ ∀ c, RegName.gain 9 ≠ .coef c :=
  ⟨running_inv, by decide +kernel, rfl, rfl, rfl, rfl, rfl, by decide, by intro c; cases c <;> decide⟩

theorem witness_ReadsChangeNothing : (access 2#2 0xFFFFFFFF#32 false 0#64).we = false := by decide

/-- The last entry and the first index beyond the buffer; an entry with a pattern and one a command made a NaN. -/
theorem witness_BufWriteReadsBack :
    idle8.status.busy = false ∧
      (access 1#2 7#32 true 5#64).we = true ∧ (access 1#2 7#32 false 0#64).we = false ∧
      (access 1#2 7#32 true 5#64).space = 1#2 ∧ 7 < idle8.cfg.bufDepth ∧ ¬ 8 < idle8.cfg.bufDepth ∧
      Memory.read [(6, .nan), (7, .pat 1#64)] 7 = some (.pat 1#64) ∧
      Memory.read [(6, .nan), (7, .pat 1#64)] 6 = some .nan := by decide

theorem witness_OutReadsTheNarrowedEntry :
    idle8.status.busy = false ∧ (access 2#2 7#32 false 0#64).space = 2#2 ∧ (access 2#2 7#32 true 0#64).we = true ∧
      idle8.cfg.bufDepth ≤ 8 ∧ 7 < idle8.cfg.bufDepth ∧
      Memory.read [(7, .pat 0x3FF0000000000000#64)] 7 = some wOne ∧ narrow .rne wOne = .pat 0x3F800000#32 ∧
      narrow .rne .nan = .nan := by decide +kernel

/-- Reads of the first and the last register of each kind, of a NaN coefficient; a writable register, a read-only one, and
`LEN` at and above the depth. -/
theorem witness_RegisterReadsAndWritesWhileIdle :
    idle8.status.busy = false ∧ (access 0#2 0x25#32 false 0#64).we = false ∧
      (access 0#2 0x25#32 false 0#64).addr.toNat = 0x25 ∧ (access 0#2 0x19#32 false 0#64).addr.toNat = 0x10 + 9 ∧
      (access 0#2 0#32 false 0#64).space = 0#2 ∧ (.nan : W) = .nan ∧ coef51.a2 = .pat 0x3FD0000000000000#64 ∧
      (access 0#2 4#32 true 8#64).we = true ∧ (access 0#2 4#32 true 9#64).space = 0#2 ∧
      regAt 0x04 = some .len ∧ RegName.len ≠ .cmd ∧ regAt 0x39 = some (.fc 9) ∧ RegName.fc 9 ≠ .cmd := by decide

/-- Rule R23 on V120 and on a completed command: the word of `STATUS`. -/
theorem test_status_word :
    regRead (done .gen (ready 3#8 4#32 0#64)) 0x01 = 0x14#64 ∧ regRead (done .filt idle8) 0x01 = 0x02#64 := by
  decide +kernel

theorem witness_UnmappedRegistersReadZero :
    [0x06, 0x07, 0x0D, 0x0F, 0x1A, 0x1F, 0x26, 0x2F, 0x3A, 0xFF, 0x100, 0xFFFFFFFF].map regAt =
      List.replicate 12 none := by decide

theorem witness_CentreFrequencyTable :
    (access 0#2 0x39#32 true 1#64).we = true ∧ (access 0#2 0x39#32 true 1#64).space = 0#2 ∧
      (access 0#2 0x39#32 true 1#64).addr.toNat = 0x30 + (9 : Fin 10).val := by decide

theorem witness_IdleBlockWaitsForTheHost :
    idle8.Inv ∧ idle8.status.busy = false ∧ idle8.inputs = [] ∧
      (waiting .sequencer).inputs = .sequencer :: [] ∧ (waiting .wait).inputs = .wait :: [] ∧
      (waiting (readReg .status)).inputs = .access (access 0#2 1#32 false 0#64) false :: [] :=
  ⟨idle8_inv, rfl, rfl, rfl, rfl, by decide⟩

/-- By a write to the last gain and, from other parameters, by reset. -/
theorem witness_OnlyTheHostChangesParameters :
    let s := waiting (writeReg (.gain 9) 1#64)
    let r := { ready 2#8 4#32 1#64 with inputs := [.reset] }
    step s = .next (stepped s) ∧ (stepped s).par ≠ s.par ∧ step r = .next (stepped r) ∧ (stepped r).par ≠ r.par :=
  ⟨step_stepped _, by decide +kernel, step_stepped _, by decide +kernel⟩

/-- Each clause: wave type 3; rate 0; a duration below zero, finite or `-Inf`; one sample too many, a duration that is a
NaN, and `-0`, which is not below zero. -/
theorem witness_GeneratorChecksInOrder :
    (ready 3#8 0#32 0#64).status.busy = false ∧
      (params 3#8 0#32 0#64).ctrl.extractLsb' 0 2 = 3#2 ∧
      (params 2#8 0#32 0#64).ctrl.extractLsb' 0 2 ≠ 3#2 ∧ (params 2#8 0#32 0#64).rate.toInt ≤ 0 ∧
      0 < (params 2#8 1#32 0#64).rate.toInt ∧ unpack (.pat 0x8000000000000001#64) = .fin true 1 ∧
      unpack (.pat 0xFFF0000000000000#64) = .inf true ∧ unpack (.pat 0x8000000000000000#64) = .fin true 0 ∧
      unpack (.pat 0x3FF0000000000000#64) = .fin false (2 ^ 1074) ∧
      floorInt (mulW (toW 9) (.pat 0x3FF0000000000000#64)) = some 9 ∧ (small .df1).bufDepth < 9 ∧
      unpack (.pat 0x7FF8000000000000#64) = .nan ∧
      floorInt (mulW (toW 9) (.pat 0x7FF8000000000000#64)) = none := by decide +kernel

theorem witness_FewerThanTenGainsAreRejected :
    let s := ready 0x96#8 4#32 0#64
    s.status.busy = false ∧ (s.par.ctrl.extractLsb' 4 4).toNat < 10 ∧ s.par.ctrl.getLsbD 2 = true ∧
      argCheck s.cfg s.par .gen = none := by decide +kernel

theorem witness_NoPartialEffects :
    idle8.status.busy = false ∧ exec .narrow idle8 = .next (done .narrow idle8) := ⟨rfl, rfl⟩

/-- For the empty buffer, four samples and the full buffer. -/
theorem witness_GenWritesTheWaveform :
    (small .df1).wf = true ∧ idle8.status.busy = false ∧ waveOf (params 0#8 8#32 0#64) = some .sine ∧
      waveOf (params 1#8 8#32 0#64) = some .square ∧ waveOf (params 2#8 8#32 0#64) = some .sawtooth ∧
      0 < (params 2#8 8#32 0#64).rate.toInt ∧ isNegative (.pat 0x3FF0000000000000#64) = false ∧
      floorInt (mulW (toW (params 2#8 8#32 0#64).rate.toInt) (.pat 0x8000000000000000#64)) = some ((0 : Nat) : Int) ∧
      floorInt (mulW (toW (params 2#8 8#32 0#64).rate.toInt) (.pat 0x3FE0000000000000#64)) = some ((4 : Nat) : Int) ∧
      floorInt (mulW (toW (params 2#8 8#32 0#64).rate.toInt) (.pat 0x3FF0000000000000#64)) = some ((8 : Nat) : Int) ∧
      8 ≤ (small .df1).bufDepth := by decide +kernel

theorem witness_ZeroDurationGivesAnEmptyBuffer :
    let s := ready 2#8 1#32 0x8000000000000000#64
    s.status.busy = false ∧ s.par.ctrl.extractLsb' 0 2 ≠ 3#2 ∧ 0 < s.par.rate.toInt ∧
      (s.par.dur = 0x0000000000000000#64 ∨ s.par.dur = 0x8000000000000000#64) := by decide

theorem witness_DsgnResWritesTheResonatorSet : idle8.status.busy = false := by decide

theorem witness_DsgnEqWritesTheBandSet :
    (0#4).toNat < 10 ∧ (9#4).toNat < 10 ∧ idle8.status.busy = false := by decide

theorem witness_FiltReplacesTheBufferByOnePass :
    (loaded .df1 coef51 input50).status.busy = false ∧ (loaded .df1 coef51 input50).len = 6#32 := by decide

theorem witness_FiltDf1Recurrence :
    (loaded .df1 coef51 input50).status.busy = false ∧ (loaded .df1 coef51 input50).cfg.biquadForm = .df1 := by decide

theorem witness_FiltDf2Recurrence :
    (loaded .df2 coef51 input50).status.busy = false ∧ (loaded .df2 coef51 input50).cfg.biquadForm = .df2 := by decide

theorem witness_FiltTdf2Recurrence :
    (loaded .tdf2 coef51 input50).status.busy = false ∧ (loaded .tdf2 coef51 input50).cfg.biquadForm = .tdf2 := by
  decide

theorem witness_NarrowNarrowsEveryEntry : (loaded .df1 coef51 input50).status.busy = false := by decide

theorem witness_NarrowIsIdempotent : (loaded .df1 coef51 input50).status.busy = false := by decide

theorem witness_ResDesignsAndFilters : (loaded .df2 coef51 input50).status.busy = false := by decide

/-- The least and the largest accepted count. -/
theorem witness_EqRunsTheTenBands :
    (ready 0xA0#8 4#32 0#64).status.busy = false ∧ 10 ≤ ((params 0xA0#8 4#32 0#64).ctrl.extractLsb' 4 4).toNat ∧
      10 ≤ ((params 0xF0#8 4#32 0#64).ctrl.extractLsb' 4 4).toNat := by decide

theorem witness_SynthRunsThePipeline :
    let s := ready 0xAE#8 8#32 0x3FF0000000000000#64
    s.cfg.wf = true ∧ s.status.busy = false ∧ waveOf s.par = some .sawtooth ∧ 0 < s.par.rate.toInt ∧
      isNegative (.pat s.par.dur) = false ∧
      floorInt (mulW (toW s.par.rate.toInt) (.pat s.par.dur)) = some ((8 : Nat) : Int) ∧ 8 ≤ s.cfg.bufDepth ∧
      (s.par.ctrl.getLsbD 2 = true → 10 ≤ (s.par.ctrl.extractLsb' 4 4).toNat) := by decide +kernel

theorem witness_ResEqualsDesignThenFilter : (loaded .df1 coef51 input50).status.busy = false := by decide

theorem witness_EqEqualsThirtyCommands :
    (ready 0xA0#8 4#32 0#64).status.busy = false ∧ 10 ≤ ((params 0xA0#8 4#32 0#64).ctrl.extractLsb' 4 4).toNat := by
  decide

/-- Both clauses: accepted, and rejected for the gain count alone. -/
theorem witness_SynthEqualsItsCommands :
    let s := ready 0xAE#8 8#32 0x3FF0000000000000#64
    let r := ready 0x9E#8 8#32 0x3FF0000000000000#64
    s.status.busy = false ∧ argCheck s.cfg s.par .synth = none ∧ r.status.busy = false ∧
      argCheck r.cfg r.par .gen = none ∧ r.par.ctrl.getLsbD 2 = true ∧
      (r.par.ctrl.extractLsb' 4 4).toNat < 10 := by decide +kernel

theorem witness_SynthWithStagesDisabledIsGen :
    let s := { State.reset with par := params 2#8 44100#32 0x3FF0000000000000#64 }
    s.status.busy = false ∧ s.par.ctrl.getLsbD 2 = false ∧ s.par.ctrl.getLsbD 3 = false ∧
      s.par.ctrl.extractLsb' 0 2 ≠ 3#2 ∧ s.par.rate = 44100#32 ∧ s.par.dur = 0x3FF0000000000000#64 ∧
      44100 ≤ s.cfg.bufDepth := by decide

/-- V57. -/
theorem witness_NaNFillsTheRestOfThePass :
    let ys := filterPass .df1 Coef.zero (words [0x3FF0000000000000#64, 0x7FF0000000000000#64, 0x400C000000000000#64])
    ys[1]? = some .nan ∧ isNaN .nan = true ∧ 1 ≤ 2 ∧ ys[2]? = some .nan := by decide +kernel

/-- V56. -/
theorem witness_ZeroCoefficientsGiveZeros :
    (∀ x ∈ [wOne, W.pat 0x8000000000000000#64], ∃ neg m, unpack x = .fin neg m) ∧
      W.zero ∈ filterPass .df1 Coef.zero [wOne, W.pat 0x8000000000000000#64] := by
  refine ⟨fun x hx => ?_, by decide +kernel⟩
  rcases List.mem_pair.mp hx with h | h
  · exact ⟨false, 2 ^ 1074, by subst h; decide +kernel⟩
  · exact ⟨true, 0, by subst h; decide +kernel⟩

theorem witness_MicroStepsRefineTheWholeRun : idle8.Inv ∧ idle8.status.busy = false := ⟨idle8_inv, rfl⟩

/-- A run in progress, and a host waiting for it. -/
theorem witness_EveryRunCompletes :
    running.Inv ∧ running.status.busy = true ∧
      ({ running with inputs := [.wait] }).Inv ∧ ({ running with inputs := [.wait] }).inputs = .wait :: [] :=
  ⟨running_inv, by decide +kernel, { running_inv with }, rfl⟩

theorem witness_RunIsHiddenUntilCompletion : running.Inv ∧ running.status.busy = true :=
  ⟨running_inv, by decide +kernel⟩

theorem witness_HostCannotDisturbARun : running.status.busy = true := by decide +kernel

theorem witness_RoundingIsNearestTiesToEven : 1 ≤ 1 ∧ 1 ≤ 53 ∧ 0 < 1 ∧ 0 < 2 ^ 1074 := by decide +kernel

/-- The largest magnitude `W` has. -/
theorem witness_PackAndUnpackAreInverse :
    Representable 53 0 ((2 ^ 53 - 1) * 2 ^ 2045) ∧ (2 ^ 53 - 1) * 2 ^ 2045 < 2 ^ 2098 ∧
      unpack (.pat 0x7FEFFFFFFFFFFFFF#64) ≠ .nan :=
  ⟨⟨2 ^ 53 - 1, 2045, by decide +kernel, Nat.zero_le _, rfl⟩, by decide +kernel, by decide +kernel⟩

/-- Equal and unequal magnitudes of both orders and signs, a zero and a non-zero divisor, and the special operands. -/
theorem witness_ArithmeticRoundsOnceWithSpecialCases :
    unpack wOne = .fin false (2 ^ 1074) ∧ unpack wMinusOne = .fin true (2 ^ 1074) ∧
      unpack wTwo = .fin false (2 ^ 1075) ∧ unpack (.pat 0x7FEFFFFFFFFFFFFF#64) = .fin false ((2 ^ 53 - 1) * 2 ^ 2045) ∧
      2 ^ 1074 < 2 ^ 1075 ∧ 2 ^ 1074 ≠ 0 ∧ false ≠ true ∧
      isNaN (.pat 0xFFF8000000000000#64) = true ∧ unpack (.pat 0xFFF0000000000000#64) = .inf true ∧
      unpack (.pat 0x8000000000000000#64) = .fin true 0 ∧ unpack (.pat 1#64) = .fin false 1 ∧ 1 ≠ 0 ∧
      unpack (.pat 0x7FF0000000000000#64) = .inf false := by
  decide +kernel

theorem witness_IntegersConvertExactly :
    Int.natAbs (-(2 ^ 53 - 1)) < 2 ^ 53 ∧ Int.natAbs 0 < 2 ^ 53 := by decide +kernel

theorem witness_FloorIsTheLargestIntegerBelow :
    unpack (.pat 0x8000000000000001#64) = .fin true 1 ∧ isNaN (.pat 0x7FF0000000000001#64) = true ∧
      unpack (.pat 0x7FF0000000000000#64) = .inf false := by decide +kernel

/-- V76 and V77: just below the overflow tie, and the tie; V71: a tie between two sample values. -/
theorem witness_NarrowRoundsToNearest :
    unpack (.pat 0x47EFFFFFEFFFFFFF#64) = .fin false (2 ^ 1202 - 2 ^ 1177 - 2 ^ 1149) ∧
      2 ^ 1202 - 2 ^ 1177 - 2 ^ 1149 < 2 ^ 1202 - 2 ^ 1177 ∧
      unpack (.pat 0x47EFFFFFF0000000#64) = .fin false (2 ^ 1202 - 2 ^ 1177) ∧
      unpack (.pat 0x3FF0000010000000#64) = .fin false (2 ^ 1074 + 2 ^ 1050) ∧
      narrow .rne (.pat 0x3FF0000010000000#64) = .pat 0x3F800000#32 ∧ Representable 24 925 (2 ^ 1074 + 2 ^ 1051) :=
  ⟨by decide +kernel, by decide +kernel, by decide +kernel, by decide +kernel, by decide +kernel,
    ⟨2 ^ 23 + 1, 1051, by decide, by decide, by decide +kernel⟩⟩

theorem witness_NarrowTowardZeroNeverOverflows :
    unpack (.pat 0x47EFFFFFF0000000#64) = .fin false (2 ^ 1202 - 2 ^ 1177) ∧
      unpack (.pat 0x8000000000000001#64) = .fin true 1 := by decide +kernel

theorem witness_WidenThenNarrowIsIdentity :
    unpackSample (.pat 0x00000001#32) ≠ .nan ∧ unpackSample (.pat 0xFF800000#32) ≠ .nan ∧
      isNaN (.pat 0x7FF0000000000001#64) = true := by decide +kernel

theorem witness_SignTable :
    isNaN .nan = true ∧ unpack (.pat 0xFFF0000000000000#64) = .inf true ∧
      unpack (.pat 0x8000000000000001#64) = .fin true 1 ∧ unpack (.pat 0x8000000000000000#64) = .fin true 0 := by
  decide +kernel

/-- Idle and busy, a write and a read. -/
theorem witness_ReservedSpaceReadsZero :
    (access 3#2 0#32 true 1#64).space = 3#2 ∧ (access 3#2 0#32 true 1#64).we = true ∧
      (access 3#2 0#32 false 0#64).we = false ∧ idle8.status.busy = false ∧ running.status.busy = true := by
  decide +kernel

/-- The clauses of the applied function: neither a NaN, a NaN result, a NaN operand with a number and with a NaN. -/
theorem witness_FunctionsApplyAndFirstSineIsZero :
    (isNaN wOne = false ∧ isNaN (id wOne) = false ∧ isNaN ((fun _ => W.nan) wOne) = true ∧
      isNaN (.pat 0x7FF8000000000001#64) = true ∧ isNaN ((fun _ => wOne) W.nan) = false ∧ isNaN (id W.nan) = true) ∧
    SinZero { sin := id, cos := id, pow10 := id } ∧ (0 : Int) < 44100 ∧ (44100 : Int) < 2 ^ 31 ∧
      unpack wMinusOne = .fin true (2 ^ 1074) ∧ ∃ k, unpack (mulW wTwoPi wOne) = .fin false k :=
  ⟨by decide +kernel, ⟨rfl, rfl⟩, by decide, by decide, by decide +kernel, 7074237752028440 * 2 ^ 1024, by decide +kernel⟩

end Sys2Proof.Tests
end

section
/-! PROOFS. Rounding on natural numbers (00_scope.md rule R11): the place of the last bit kept, rounding to nearest with ties
to even and rounding down, over every format `Representable prec low`. -/

namespace Sys2Proof.Machine

/-! ## The magnitudes of a format -/

theorem representable_mul_pow {prec low k t : Nat} (hk : k < 2 ^ prec) (ht : low ≤ t) :
    Representable prec low (k * 2 ^ t) := ⟨k, t, hk, ht, rfl⟩

theorem representable_zero (prec low : Nat) : Representable prec low 0 :=
  ⟨0, low, Nat.two_pow_pos prec, le_rfl, (Nat.zero_mul _).symm⟩

theorem representable_pow {prec low t : Nat} (hprec : 1 ≤ prec) (ht : low ≤ t) : Representable prec low (2 ^ t) :=
  ⟨1, t, Nat.one_lt_two_pow (by omega), ht, (Nat.one_mul _).symm⟩

/-- The carry out of the last bit kept: `2^prec` multiples of `2^t` are a magnitude of the format too. -/
theorem representable_mul_pow_of_le {prec low k t : Nat} (hprec : 1 ≤ prec) (hk : k ≤ 2 ^ prec) (ht : low ≤ t) :
    Representable prec low (k * 2 ^ t) := by
  rcases hk.lt_or_eq with hlt | rfl
  · exact representable_mul_pow hlt ht
  · rw [← pow_add]
    exact representable_pow hprec (by omega)

/-- A finer format has every magnitude of a coarser one. -/
theorem Representable.mono {prec prec' low low' m : Nat} (h : Representable prec low m) (hprec : prec ≤ prec')
    (hlow : low' ≤ low) : Representable prec' low' m := by
  obtain ⟨k, t, hk, ht, rfl⟩ := h
  exact representable_mul_pow (hk.trans_le (Nat.pow_le_pow_right two_pos hprec)) (hlow.trans ht)

/-- Against the grid of the multiples of `2^t`: a magnitude of the format lies on it or is small. -/
theorem Representable.multiple_or_lt {prec low z : Nat} (hz : Representable prec low z) (t : Nat) :
    (∃ j, z = j * 2 ^ t) ∨ (low < t ∧ z < 2 ^ (prec + t - 1)) := by
  obtain ⟨k, s, hk, hs, rfl⟩ := hz
  rcases le_or_gt t s with hts | hst
  · exact .inl ⟨k * 2 ^ (s - t), by rw [Nat.mul_assoc, ← pow_add, Nat.sub_add_cancel hts]⟩
  · refine .inr ⟨by omega, ?_⟩
    calc k * 2 ^ s < 2 ^ prec * 2 ^ s := Nat.mul_lt_mul_of_pos_right hk (Nat.two_pow_pos s)
      _ = 2 ^ (prec + s) := (pow_add 2 prec s).symm
      _ ≤ 2 ^ (prec + t - 1) := Nat.pow_le_pow_right two_pos (by omega)

/-- The largest magnitude below a power of two that the format has is `prec` ones. -/
theorem Representable.le_of_lt_pow {prec low z u : Nat} (hz : Representable prec low z) (hprec : 1 ≤ prec)
    (hlt : z < 2 ^ (prec + u)) : z ≤ (2 ^ prec - 1) * 2 ^ u := by
  rcases hz.multiple_or_lt u with ⟨j, rfl⟩ | ⟨hlow, hsmall⟩
  · rw [pow_add] at hlt
    have hj : j < 2 ^ prec := lt_of_mul_lt_mul_right' hlt
    exact Nat.mul_le_mul_right _ (by omega)
  · have hhalf : 2 ^ (prec + u) = 2 * 2 ^ (prec + u - 1) := by
      rw [← pow_succ', Nat.sub_add_cancel (by omega)]
    have hunit : 2 ^ u ≤ 2 ^ (prec + u - 1) := Nat.pow_le_pow_right two_pos (by omega)
    rw [Nat.sub_mul, Nat.one_mul, ← pow_add]
    omega

/-! ## The last bit kept -/

theorem low_le_lastPlace (prec low p q : Nat) : low ≤ lastPlace prec low p q := le_max_left _ _

theorem lt_pow_lastPlace_mul (prec low p : Nat) {q : Nat} (hq : 0 < q) :
    p < 2 ^ (prec + lastPlace prec low p q) * q := by
  rw [← Nat.div_lt_iff_lt_mul hq]
  calc p / q < 2 ^ ((p / q).log2 + 1) := Nat.lt_log2_self
    _ ≤ 2 ^ (prec + lastPlace prec low p q) :=
      Nat.pow_le_pow_right two_pos (by unfold lastPlace; omega)

/-- Above the least unit of the format, `prec` bits are kept. -/
theorem pow_lastPlace_mul_le {prec low p q : Nat} (hprec : 1 ≤ prec) (hq : 0 < q) (h : low < lastPlace prec low p q) :
    2 ^ (prec + lastPlace prec low p q - 1) * q ≤ p := by
  have hexp : prec + lastPlace prec low p q - 1 = (p / q).log2 := by unfold lastPlace at h ⊢; omega
  have hne : p / q ≠ 0 := by
    intro h0
    rw [h0, Nat.log2_zero] at hexp
    omega
  rw [hexp, ← Nat.le_div_iff_mul_le hq]
  exact Nat.log2_self_le hne

/-- A magnitude of the format is a multiple of the last place kept, or some multiple of it separates the two. -/
theorem Representable.multiple_or_separated {prec low p q z : Nat} (hz : Representable prec low z) (hprec : 1 ≤ prec)
    (hq : 0 < q) :
    (∃ j, z = j * 2 ^ lastPlace prec low p q) ∨
      ∃ j, z < j * 2 ^ lastPlace prec low p q ∧ j * 2 ^ lastPlace prec low p q * q ≤ p := by
  rcases hz.multiple_or_lt (lastPlace prec low p q) with hmul | ⟨hlow, hlt⟩
  · exact .inl hmul
  · refine .inr ⟨2 ^ (prec - 1), ?_⟩
    rw [← pow_add, show prec - 1 + lastPlace prec low p q = prec + lastPlace prec low p q - 1 by omega]
    exact ⟨hlt, pow_lastPlace_mul_le hprec hq hlow⟩

/-! ## Rounding down -/

theorem roundDown_mul_le (p q t : Nat) : roundDown p q t * q ≤ p := by
  unfold roundDown
  calc p / (q * 2 ^ t) * 2 ^ t * q = p / (q * 2 ^ t) * (q * 2 ^ t) := by ring
    _ ≤ p := Nat.div_mul_le_self _ _

theorem le_roundDown_of_multiple {p q t j : Nat} (hq : 0 < q) (h : j * 2 ^ t * q ≤ p) : j * 2 ^ t ≤ roundDown p q t := by
  unfold roundDown
  refine Nat.mul_le_mul_right _ ((Nat.le_div_iff_mul_le (by positivity)).mpr ?_)
  calc j * (q * 2 ^ t) = j * 2 ^ t * q := by ring
    _ ≤ p := h

theorem div_lastPlace_lt (prec low p : Nat) {q : Nat} (hq : 0 < q) :
    p / (q * 2 ^ lastPlace prec low p q) < 2 ^ prec := by
  rw [Nat.div_lt_iff_lt_mul (by positivity)]
  calc p < 2 ^ (prec + lastPlace prec low p q) * q := lt_pow_lastPlace_mul prec low p hq
    _ = 2 ^ prec * (q * 2 ^ lastPlace prec low p q) := by rw [pow_add]; ring

theorem roundDown_representable (prec low p : Nat) {q : Nat} (hq : 0 < q) :
    Representable prec low (roundDown p q (lastPlace prec low p q)) :=
  representable_mul_pow (div_lastPlace_lt prec low p hq) (low_le_lastPlace prec low p q)

/-- Rounding down gives the largest magnitude of the format not above the quotient. -/
theorem Representable.le_roundDown {prec low p q z : Nat} (hz : Representable prec low z) (hprec : 1 ≤ prec) (hq : 0 < q)
    (h : z * q ≤ p) : z ≤ roundDown p q (lastPlace prec low p q) := by
  rcases hz.multiple_or_separated (p := p) hprec hq with ⟨j, rfl⟩ | ⟨j, hlt, hle⟩
  · exact le_roundDown_of_multiple hq h
  · exact hlt.le.trans (le_roundDown_of_multiple hq hle)

/-! ## Rounding to nearest -/

/-- The multiple of `d` nearest to `p`, as its factor; ties to the even factor. -/
def nearestFactor (p d : Nat) : Nat :=
  if d < 2 * (p % d) ∨ (2 * (p % d) = d ∧ p / d % 2 = 1) then p / d + 1 else p / d

theorem roundNearest_eq (p q t : Nat) : roundNearest p q t = nearestFactor p (q * 2 ^ t) * 2 ^ t := by rfl

theorem nearestFactor_le (p d : Nat) : nearestFactor p d ≤ p / d + 1 := by
  unfold nearestFactor
  split <;> omega

theorem nearestFactor_nearest (p : Nat) {d : Nat} (hd : 0 < d) (j : Nat) :
    |(nearestFactor p d * d : Int) - p| ≤ |(j * d : Int) - p| ∧
      (|(nearestFactor p d * d : Int) - p| = |(j * d : Int) - p| → j ≠ nearestFactor p d →
        nearestFactor p d % 2 = 0) := by
  have hp : ((p / d : Nat) * d : Int) + (p % d : Nat) = p := by exact_mod_cast Nat.div_add_mod' p d
  have hr : p % d < d := Nat.mod_lt p hd
  -- `j` is `i` steps away from the quotient
  obtain ⟨i, hi⟩ : ∃ i : Int, (j : Int) = (p / d : Nat) + i := ⟨j - (p / d : Nat), by omega⟩
  have hj : (j * d : Int) = (p / d : Nat) * d + i * d := by rw [hi]; ring
  have hstep : (i < 0 → i * d ≤ -d) ∧ (i = 0 → i * d = 0) ∧ (i = 1 → i * d = d) ∧ (1 < i → 2 * d ≤ i * d) := by
    refine ⟨fun h => ?_, fun h => ?_, fun h => ?_, fun h => ?_⟩ <;> nlinarith
  have hup : (((p / d : Nat) : Int) + 1) * d = (p / d : Nat) * d + d := by ring
  unfold nearestFactor
  rw [hj]
  simp only [abs_eq_max_neg]
  generalize i * (d : Int) = x at *
  split
  · rw [Nat.cast_add, Nat.cast_one, hup]
    generalize ((p / d : Nat) : Int) * d = y at *
    omega
  · generalize ((p / d : Nat) : Int) * d = y at *
    omega

theorem roundNearest_div_pow (p q t : Nat) : roundNearest p q t / 2 ^ t = nearestFactor p (q * 2 ^ t) := by
  rw [roundNearest_eq, Nat.mul_div_cancel _ (Nat.two_pow_pos t)]

theorem nearestFactor_lastPlace_le (prec low p : Nat) {q : Nat} (hq : 0 < q) :
    nearestFactor p (q * 2 ^ lastPlace prec low p q) ≤ 2 ^ prec :=
  (nearestFactor_le _ _).trans (div_lastPlace_lt prec low p hq)

theorem roundNearest_representable {prec : Nat} (low p : Nat) {q : Nat} (hprec : 1 ≤ prec) (hq : 0 < q) :
    Representable prec low (roundNearest p q (lastPlace prec low p q)) :=
  representable_mul_pow_of_le hprec (nearestFactor_lastPlace_le prec low p hq) (low_le_lastPlace prec low p q)

/-- Among the multiples of `2^t`. -/
theorem roundNearest_nearest_multiple (p t j : Nat) {q : Nat} (hq : 0 < q) :
    |(roundNearest p q t * q : Int) - p| ≤ |((j * 2 ^ t : Nat) * q : Int) - p| ∧
      (|(roundNearest p q t * q : Int) - p| = |((j * 2 ^ t : Nat) * q : Int) - p| → j * 2 ^ t ≠ roundNearest p q t →
        roundNearest p q t / 2 ^ t % 2 = 0) := by
  have hcast (f : Nat) : (((f * 2 ^ t : Nat) : Int) * q) = f * (q * 2 ^ t : Nat) := by push_cast; ring
  rw [roundNearest_div_pow, roundNearest_eq, hcast, hcast]
  obtain ⟨hle, htie⟩ := nearestFactor_nearest p (show 0 < q * 2 ^ t by positivity) j
  exact ⟨hle, fun heq hne => htie heq (by rintro rfl; exact hne rfl)⟩

/-- Rule R11: the nearest magnitude of the format, and on a tie one whose last kept bit is 0. -/
theorem roundNearest_nearest {prec low p q z : Nat} (hz : Representable prec low z) (hprec : 1 ≤ prec) (hq : 0 < q) :
    |(roundNearest p q (lastPlace prec low p q) * q : Int) - p| ≤ |(z * q : Int) - p| ∧
      (|(roundNearest p q (lastPlace prec low p q) * q : Int) - p| = |(z * q : Int) - p| →
        z ≠ roundNearest p q (lastPlace prec low p q) →
        roundNearest p q (lastPlace prec low p q) / 2 ^ lastPlace prec low p q % 2 = 0) := by
  rcases hz.multiple_or_separated (p := p) hprec hq with ⟨j, rfl⟩ | ⟨j, hlt, hle⟩
  · exact roundNearest_nearest_multiple p _ j hq
  · -- the multiple between `z` and `p / q` is strictly nearer than `z`
    have hnear := (roundNearest_nearest_multiple p (lastPlace prec low p q) j hq).1
    have hcloser : |((j * 2 ^ lastPlace prec low p q : Nat) * q : Int) - p| < |(z * q : Int) - p| := by
      have hle' : ((j * 2 ^ lastPlace prec low p q : Nat) * q : Int) ≤ p := by exact_mod_cast hle
      have hlt' : (z * q : Int) < (j * 2 ^ lastPlace prec low p q : Nat) * q := by
        exact_mod_cast Nat.mul_lt_mul_of_pos_right hlt hq
      rw [abs_of_nonpos (by omega), abs_of_neg (by omega)]
      omega
    exact ⟨(hnear.trans_lt hcloser).le, fun heq => absurd heq (hnear.trans_lt hcloser).ne⟩

/-- A magnitude of the format is rounded to itself. -/
theorem Representable.roundNearest_eq_self {prec low m : Nat} (hm : Representable prec low m) (hprec : 1 ≤ prec) :
    roundNearest m 1 (lastPlace prec low m 1) = m := by
  have hnear := (roundNearest_nearest (p := m) hm hprec one_pos).1
  simp only [Nat.cast_one, mul_one, sub_self, abs_zero, abs_nonpos_iff] at hnear
  omega

theorem Representable.roundDown_eq_self {prec low m : Nat} (hm : Representable prec low m) (hprec : 1 ≤ prec) :
    roundDown m 1 (lastPlace prec low m 1) = m := by
  have hle := roundDown_mul_le m 1 (lastPlace prec low m 1)
  have hge := hm.le_roundDown (p := m) hprec one_pos (by omega)
  omega

/-! ## Overflow -/

/-- Between two neighbouring powers of two the last place kept is fixed. -/
theorem lastPlace_eq {prec low p q u : Nat} (hprec : 1 ≤ prec) (hq : 0 < q) (hlow : low ≤ u + 1)
    (hge : 2 ^ (prec + u) * q ≤ p) (hlt : p < 2 ^ (prec + (u + 1)) * q) : lastPlace prec low p q = u + 1 := by
  have hlower : prec + u < prec + lastPlace prec low p q :=
    (Nat.pow_lt_pow_iff_right one_lt_two).mp
      (lt_of_mul_lt_mul_right' (hge.trans_lt (lt_pow_lastPlace_mul prec low p hq)))
  by_contra hne
  have hupper : prec + lastPlace prec low p q - 1 < prec + (u + 1) :=
    (Nat.pow_lt_pow_iff_right one_lt_two).mp
      (lt_of_mul_lt_mul_right' ((pow_lastPlace_mul_le hprec hq (by omega)).trans_lt hlt))
  omega

theorem largest_add_two_mul_pow (prec u : Nat) : (2 ^ prec - 1) * 2 ^ (u + 1) + 2 * 2 ^ u = 2 ^ (prec + (u + 1)) := by
  rw [← pow_succ', pow_add 2 prec, Nat.sub_mul, Nat.one_mul,
    Nat.sub_add_cancel (Nat.le_mul_of_pos_left _ (Nat.two_pow_pos prec))]

/-- Below halfway between the largest magnitude under `2^(prec+u+1)` and that power, rounding stays under the power. -/
theorem roundNearest_lt_of_lt_tie {prec low p q u : Nat} (hprec : 1 ≤ prec) (hq : 0 < q) (hlow : low ≤ u + 1)
    (h : p < (2 ^ (prec + (u + 1)) - 2 ^ u) * q) :
    roundNearest p q (lastPlace prec low p q) < 2 ^ (prec + (u + 1)) := by
  by_contra! hge
  have hlargest : Representable prec low ((2 ^ prec - 1) * 2 ^ (u + 1)) :=
    representable_mul_pow (Nat.sub_lt (Nat.two_pow_pos _) one_pos) hlow
  have hnear := (roundNearest_nearest (p := p) hlargest hprec hq).1
  have hsum := congrArg (· * q) (largest_add_two_mul_pow prec u)
  have hgeq := Nat.mul_le_mul_right q hge
  have hunit := Nat.mul_pos (Nat.two_pow_pos u) hq
  rw [Nat.sub_mul] at h
  simp only [Nat.add_mul, Nat.mul_assoc 2] at hsum
  simp only [abs_eq_max_neg, ← Nat.cast_mul] at hnear
  omega

/-- From halfway on it reaches the power: at the tie, because the largest magnitude under the power ends in a 1. -/
theorem le_roundNearest_of_tie_le {prec low p q u : Nat} (hprec : 1 ≤ prec) (hq : 0 < q) (hlow : low ≤ u + 1)
    (h : (2 ^ (prec + (u + 1)) - 2 ^ u) * q ≤ p) :
    2 ^ (prec + (u + 1)) ≤ roundNearest p q (lastPlace prec low p q) := by
  by_contra! hlt
  have hpow : Representable prec low (2 ^ (prec + (u + 1))) := representable_pow hprec (by omega)
  obtain ⟨hnear, htie⟩ := roundNearest_nearest (p := p) hpow hprec hq
  have hle := (roundNearest_representable low p hprec hq).le_of_lt_pow hprec hlt
  have hsum := largest_add_two_mul_pow prec u
  have hsumq := congrArg (· * q) hsum
  have hleq := Nat.mul_le_mul_right q hle
  have hunit := Nat.mul_pos (Nat.two_pow_pos u) hq
  simp only [Nat.add_mul, Nat.mul_assoc 2] at hsumq
  rw [Nat.sub_mul] at h
  simp only [abs_eq_max_neg, ← Nat.cast_mul] at hnear htie
  -- only the tie itself is left, where the largest magnitude and the power are equally near
  have hp : p + 2 ^ u * q = 2 ^ (prec + (u + 1)) * q := by omega
  have hm : roundNearest p q (lastPlace prec low p q) = (2 ^ prec - 1) * 2 ^ (u + 1) :=
    Nat.eq_of_mul_eq_mul_right hq (by omega)
  have hplace : lastPlace prec low p q = u + 1 := by
    refine lastPlace_eq hprec hq hlow ?_ (by omega)
    have hhalf : 2 ^ (prec + (u + 1)) * q = 2 * (2 ^ (prec + u) * q) := by ring
    have hle' : 2 ^ u * q ≤ 2 ^ (prec + u) * q :=
      Nat.mul_le_mul_right q (Nat.pow_le_pow_right two_pos (by omega))
    omega
  have heven := htie (by rw [hm]; omega) hlt.ne'
  rw [hm, hplace, Nat.mul_div_cancel _ (Nat.two_pow_pos _)] at heven
  have hpos := Nat.two_pow_pos prec
  have hpow_even : 2 ^ prec % 2 = 0 := Nat.mod_eq_zero_of_dvd (dvd_pow_self 2 (by omega))
  omega

/-- Rounding reaches `2^(prec+u+1)` exactly from the tie below it on. -/
theorem le_roundNearest_iff_tie_le {prec low p q u : Nat} (hprec : 1 ≤ prec) (hq : 0 < q) (hlow : low ≤ u + 1) :
    2 ^ (prec + (u + 1)) ≤ roundNearest p q (lastPlace prec low p q) ↔
      (2 ^ (prec + (u + 1)) - 2 ^ u) * q ≤ p := by
  refine ⟨fun h => ?_, le_roundNearest_of_tie_le hprec hq hlow⟩
  by_contra! hlt
  exact absurd h (roundNearest_lt_of_lt_tie hprec hq hlow hlt).not_ge

/-- Settles O50: the nearest multiple of the last place kept is the nearest magnitude of the format. -/
theorem roundingIsNearestTiesToEven : Obligations.RoundingIsNearestTiesToEven := by
  unfold Obligations.RoundingIsNearestTiesToEven
  intro prec low p q hprec hq
  exact ⟨_, rfl, roundNearest_representable low p hprec hq, fun z hz => roundNearest_nearest hz hprec hq⟩

end Sys2Proof.Machine
end

section
/-! PROOFS. The layouts of binary64 and binary32 (00_scope.md rules R9, R10): the exponent and fraction fields as one number,
and packing as the inverse of unpacking. -/

namespace Sys2Proof.Machine

/-! ## A magnitude and its fields -/

/-- The magnitude whose exponent and fraction fields, as one number, are `x`; `magFields` read backwards. -/
def fieldsMag (fb x : Nat) : Nat :=
  if x / 2 ^ fb = 0 then x % 2 ^ fb else (2 ^ fb + x % 2 ^ fb) * 2 ^ (x / 2 ^ fb - 1)

/-- `k` is the significand of `k * 2^t` as a format with `fb` fraction bits writes it: the leading bit is set, or the number
is subnormal. -/
def NormalSignificand (fb t k : Nat) : Prop := k < 2 ^ (fb + 1) ∧ (t = 0 ∨ 2 ^ fb ≤ k)

theorem Representable.exists_normal {fb m : Nat} (hm : Representable (fb + 1) 0 m) :
    ∃ t k, NormalSignificand fb t k ∧ m = k * 2 ^ t := by
  obtain ⟨k, hk⟩ : ∃ k, m = k * 2 ^ (m.log2 - fb) := by
    rcases hm.multiple_or_lt (m.log2 - fb) with hmul | ⟨hpos, hlt⟩
    · exact hmul
    · have hne : m ≠ 0 := by rintro rfl; simp at hpos
      rw [show fb + 1 + (m.log2 - fb) - 1 = m.log2 by omega] at hlt
      exact absurd (Nat.log2_self_le hne) hlt.not_ge
  refine ⟨m.log2 - fb, k, ⟨?_, ?_⟩, hk⟩
  · have hlt : k * 2 ^ (m.log2 - fb) < 2 ^ (fb + 1) * 2 ^ (m.log2 - fb) := by
      rw [← hk, ← pow_add]
      exact Nat.lt_log2_self.trans_le (Nat.pow_le_pow_right two_pos (by omega))
    exact lt_of_mul_lt_mul_right' hlt
  · refine or_iff_not_imp_left.mpr fun hpos => ?_
    have hne : m ≠ 0 := by rintro rfl; simp at hpos
    have hle : 2 ^ fb * 2 ^ (m.log2 - fb) ≤ k * 2 ^ (m.log2 - fb) := by
      rw [← hk, ← pow_add, show fb + (m.log2 - fb) = m.log2 by omega]
      exact Nat.log2_self_le hne
    exact Nat.le_of_mul_le_mul_right hle (Nat.two_pow_pos _)

theorem exists_normal_fields (fb x : Nat) : ∃ t k, NormalSignificand fb t k ∧ x = t * 2 ^ fb + k := by
  have hmod := Nat.mod_lt x (Nat.two_pow_pos fb)
  have hx := Nat.div_add_mod' x (2 ^ fb)
  rcases Nat.eq_zero_or_pos (x / 2 ^ fb) with h0 | hpos
  · refine ⟨0, x, ⟨?_, .inl rfl⟩, by omega⟩
    rw [h0] at hx
    rw [pow_succ]
    omega
  · refine ⟨x / 2 ^ fb - 1, 2 ^ fb + x % 2 ^ fb, ⟨by rw [pow_succ]; omega, .inr (Nat.le_add_right _ _)⟩, ?_⟩
    have hstep : (x / 2 ^ fb - 1) * 2 ^ fb + 2 ^ fb = x / 2 ^ fb * 2 ^ fb := by
      rw [← Nat.succ_mul, Nat.succ_eq_add_one, Nat.sub_add_cancel hpos]
    omega

theorem NormalSignificand.log2_sub {fb t k : Nat} (h : NormalSignificand fb t k) : (k * 2 ^ t).log2 - fb = t := by
  obtain ⟨hlt, hge⟩ := h
  rcases Nat.eq_zero_or_pos k with rfl | hpos
  · have : t = 0 := hge.resolve_right (by have := Nat.two_pow_pos fb; omega)
    simp [this]
  · have hne : k * 2 ^ t ≠ 0 := (Nat.mul_pos hpos (Nat.two_pow_pos t)).ne'
    have hupper : (k * 2 ^ t).log2 < fb + 1 + t := by
      rw [Nat.log2_lt hne, pow_add]
      exact Nat.mul_lt_mul_of_pos_right hlt (Nat.two_pow_pos t)
    rcases hge with rfl | hge
    · omega
    · have hlower : fb + t ≤ (k * 2 ^ t).log2 := by
        rw [Nat.le_log2 hne, pow_add]
        exact Nat.mul_le_mul_right _ hge
      omega

theorem NormalSignificand.magFields {fb t k : Nat} (h : NormalSignificand fb t k) : magFields fb (k * 2 ^ t) = t * 2 ^ fb + k := by
  unfold Machine.magFields
  simp only [h.log2_sub, Nat.mul_div_cancel k (Nat.two_pow_pos t)]

theorem NormalSignificand.fieldsMag {fb t k : Nat} (h : NormalSignificand fb t k) : fieldsMag fb (t * 2 ^ fb + k) = k * 2 ^ t := by
  obtain ⟨hlt, hge⟩ := h
  have hpos := Nat.two_pow_pos fb
  unfold Machine.fieldsMag
  rcases lt_or_ge k (2 ^ fb) with hsub | hnorm
  · have ht : t = 0 := hge.resolve_right (by omega)
    simp [ht, Nat.mod_eq_of_lt hsub, Nat.div_eq_of_lt hsub]
  · have hx : t * 2 ^ fb + k = (k - 2 ^ fb) + (t + 1) * 2 ^ fb := by rw [Nat.add_mul]; omega
    have hfrac : k - 2 ^ fb < 2 ^ fb := by rw [pow_succ] at hlt; omega
    rw [hx, Nat.add_mul_div_right _ _ hpos, Nat.add_mul_mod_self_right, Nat.div_eq_of_lt hfrac, Nat.mod_eq_of_lt hfrac,
      if_neg (by omega), Nat.add_sub_cancel' hnorm, Nat.zero_add, Nat.add_sub_cancel]

theorem fieldsMag_magFields {fb m : Nat} (hm : Representable (fb + 1) 0 m) : fieldsMag fb (magFields fb m) = m := by
  obtain ⟨t, k, hnorm, rfl⟩ := hm.exists_normal
  rw [hnorm.magFields, hnorm.fieldsMag]

theorem magFields_fieldsMag (fb x : Nat) : magFields fb (fieldsMag fb x) = x := by
  obtain ⟨t, k, hnorm, rfl⟩ := exists_normal_fields fb x
  rw [hnorm.fieldsMag, hnorm.magFields]

theorem fieldsMag_representable (fb x : Nat) : Representable (fb + 1) 0 (fieldsMag fb x) := by
  obtain ⟨t, k, hnorm, rfl⟩ := exists_normal_fields fb x
  rw [hnorm.fieldsMag]
  exact representable_mul_pow hnorm.1 t.zero_le

/-- The fields reach the exponent `e + 2` where the magnitude reaches `2^(fb+1+e)`. -/
theorem fieldsMag_lt_iff (fb e x : Nat) : fieldsMag fb x < 2 ^ (fb + 1 + e) ↔ x < (e + 2) * 2 ^ fb := by
  obtain ⟨t, k, hnorm, rfl⟩ := exists_normal_fields fb x
  rw [hnorm.fieldsMag]
  obtain ⟨hlt, hge⟩ := hnorm
  rcases le_or_gt t e with hte | het
  · refine iff_of_true ?_ ?_
    · calc k * 2 ^ t < 2 ^ (fb + 1) * 2 ^ t := Nat.mul_lt_mul_of_pos_right hlt (Nat.two_pow_pos t)
        _ = 2 ^ (fb + 1 + t) := (pow_add _ _ _).symm
        _ ≤ 2 ^ (fb + 1 + e) := Nat.pow_le_pow_right two_pos (by omega)
    · have := Nat.mul_le_mul_right (2 ^ fb) hte
      rw [pow_succ] at hlt
      rw [Nat.add_mul]
      omega
  · have hk : 2 ^ fb ≤ k := hge.resolve_left (by omega)
    refine iff_of_false (not_lt.mpr ?_) (not_lt.mpr ?_)
    · calc 2 ^ (fb + 1 + e) ≤ 2 ^ (fb + t) := Nat.pow_le_pow_right two_pos (by omega)
        _ = 2 ^ fb * 2 ^ t := pow_add _ _ _
        _ ≤ k * 2 ^ t := Nat.mul_le_mul_right _ hk
    · have := Nat.mul_le_mul_right (2 ^ fb) (Nat.succ_le_of_lt het)
      rw [Nat.succ_eq_add_one, Nat.add_mul] at this
      rw [Nat.add_mul]
      omega

/-- An even number of last places has an even fraction field, also where the rounding carried into the next power. -/
theorem magFields_mod_two {fb k : Nat} (t : Nat) (hfb : 1 ≤ fb) (hk : k ≤ 2 ^ (fb + 1)) (heven : k % 2 = 0) :
    magFields fb (k * 2 ^ t) % 2 = 0 := by
  have hpow : 2 ∣ 2 ^ fb := dvd_pow_self 2 (by omega)
  rcases hk.lt_or_eq with hlt | rfl
  · obtain ⟨s, j, hnorm, hj⟩ := (representable_mul_pow (low := 0) hlt t.zero_le).exists_normal
    have hst : s ≤ t := by
      have hlog := hnorm.log2_sub
      rcases Nat.eq_zero_or_pos k with rfl | hpos
      · rw [← hj] at hlog
        simp at hlog
        omega
      · have hne : k * 2 ^ t ≠ 0 := (Nat.mul_pos hpos (Nat.two_pow_pos t)).ne'
        have : (k * 2 ^ t).log2 < fb + 1 + t := by
          rw [Nat.log2_lt hne, pow_add]
          exact Nat.mul_lt_mul_of_pos_right hlt (Nat.two_pow_pos t)
        rw [← hj] at hlog
        omega
    have hj' : j = k * 2 ^ (t - s) :=
      Nat.eq_of_mul_eq_mul_right (Nat.two_pow_pos s)
        (by rw [← hj, Nat.mul_assoc, ← pow_add, Nat.sub_add_cancel hst])
    rw [hj, hnorm.magFields, ← Nat.dvd_iff_mod_eq_zero]
    exact dvd_add (hpow.mul_left s) (hj' ▸ (Nat.dvd_of_mod_eq_zero heven).mul_right _)
  · have hnorm : NormalSignificand fb (t + 1) (2 ^ fb) := ⟨Nat.pow_lt_pow_right one_lt_two (by omega), .inr le_rfl⟩
    rw [pow_succ, Nat.mul_assoc, ← pow_succ', hnorm.magFields, ← Nat.dvd_iff_mod_eq_zero]
    exact dvd_add (hpow.mul_left _) hpow

/-! ## Sign and fields in a pattern -/

/-- The pattern of `w` bits with the sign bit `neg` above the fields `x`. -/
def signedFields (w : Nat) (neg : Bool) (x : Nat) : BitVec w := BitVec.ofNat w (neg.toNat * 2 ^ (w - 1) + x)

theorem signedFields_toNat {w x : Nat} (hw : 0 < w) (neg : Bool) (hx : x < 2 ^ (w - 1)) :
    (signedFields w neg x).toNat = neg.toNat * 2 ^ (w - 1) + x := by
  have hpow : 2 ^ w = 2 * 2 ^ (w - 1) := by rw [← pow_succ', Nat.sub_add_cancel hw]
  have hneg : neg.toNat ≤ 1 := Bool.toNat_le neg
  have := Nat.mul_le_mul_right (2 ^ (w - 1)) hneg
  rw [signedFields, BitVec.toNat_ofNat, Nat.mod_eq_of_lt (by omega)]

theorem signedFields_msb {w x : Nat} (hw : 0 < w) (neg : Bool) (hx : x < 2 ^ (w - 1)) : (signedFields w neg x).msb = neg := by
  rw [BitVec.msb_eq_decide, signedFields_toNat hw neg hx]
  cases neg
  · simpa using hx
  · simp

theorem signedFields_toNat_mod {w x : Nat} (hw : 0 < w) (neg : Bool) (hx : x < 2 ^ (w - 1)) :
    (signedFields w neg x).toNat % 2 ^ (w - 1) = x := by
  rw [signedFields_toNat hw neg hx, Nat.mul_add_mod_self_right, Nat.mod_eq_of_lt hx]

theorem exists_eq_signedFields {w : Nat} (hw : 0 < w) (b : BitVec w) : ∃ neg x, x < 2 ^ (w - 1) ∧ b = signedFields w neg x := by
  have hpow : 2 ^ w = 2 * 2 ^ (w - 1) := by rw [← pow_succ', Nat.sub_add_cancel hw]
  have hb := b.isLt
  refine ⟨b.msb, b.toNat % 2 ^ (w - 1), Nat.mod_lt _ (Nat.two_pow_pos _), BitVec.eq_of_toNat_eq ?_⟩
  rw [signedFields_toNat hw _ (Nat.mod_lt _ (Nat.two_pow_pos _)), BitVec.msb_eq_decide]
  by_cases hge : 2 ^ (w - 1) ≤ b.toNat
  · rw [Nat.mod_eq_sub_mod hge, Nat.mod_eq_of_lt (by omega)]
    simp [hge]
  · simp [hge, Nat.mod_eq_of_lt (not_le.mp hge)]

theorem signedFields_getLsbD_zero {w x : Nat} (hw : 1 < w) (neg : Bool) (hx : x < 2 ^ (w - 1)) (heven : x % 2 = 0) :
    (signedFields w neg x).getLsbD 0 = false := by
  have hpow : 2 ∣ 2 ^ (w - 1) := dvd_pow_self 2 (by omega)
  have : 2 ∣ (signedFields w neg x).toNat := by
    rw [signedFields_toNat (by omega) neg hx]
    exact dvd_add (hpow.mul_left _) (Nat.dvd_of_mod_eq_zero heven)
  rw [BitVec.getLsbD, Nat.testBit_zero]
  simpa using Nat.mod_eq_zero_of_dvd this

/-! ## Packing and unpacking binary64 -/

theorem pack_nan : pack .nan = .nan := by unfold pack; rfl

theorem pack_inf (neg : Bool) : pack (.inf neg) = .pat (signedFields 64 neg (2047 * 2 ^ 52)) := by unfold pack; rfl

theorem pack_fin (neg : Bool) (m : Nat) : pack (.fin neg m) = .pat (signedFields 64 neg (magFields 52 m)) := by
  unfold pack; rfl

theorem unpack_nan : unpack .nan = .nan := by unfold unpack; rfl

theorem fieldsMag_lt_iff_finite (x : Nat) : fieldsMag 52 x < 2 ^ 2098 ↔ x < 2047 * 2 ^ 52 := by
  simpa only [Nat.reduceAdd] using fieldsMag_lt_iff 52 2045 x

theorem unpack_signedFields {x : Nat} (neg : Bool) (hx : x < 2 ^ 63) :
    unpack (.pat (signedFields 64 neg x)) =
      if x < 2047 * 2 ^ 52 then .fin neg (fieldsMag 52 x) else if x = 2047 * 2 ^ 52 then .inf neg else .nan := by
  have hmsb := signedFields_msb (w := 64) (by decide) neg hx
  have hmod := signedFields_toNat_mod (w := 64) (by decide) neg hx
  have hexp : (signedFields 64 neg x).toNat / 2 ^ 52 % 2 ^ 11 = x / 2 ^ 52 := by omega
  have hfrac : (signedFields 64 neg x).toNat % 2 ^ 52 = x % 2 ^ 52 := by omega
  unfold unpack unpackBits fieldsMag
  simp only [hmsb, hexp, hfrac]
  rcases Nat.lt_trichotomy x (2047 * 2 ^ 52) with hlt | rfl | hgt
  · rw [if_pos hlt, if_neg (by omega), apply_ite (Num.fin neg)]
  · rfl
  · rw [if_neg hgt.not_gt, if_neg hgt.ne', if_pos (by omega), if_neg (by omega)]

theorem unpack_signedFields_fin {x : Nat} (neg : Bool) (hx : x < 2047 * 2 ^ 52) :
    unpack (.pat (signedFields 64 neg x)) = .fin neg (fieldsMag 52 x) := by
  rw [unpack_signedFields neg (by omega), if_pos hx]

/-- What a pattern stands for, with its fields in sight. -/
theorem unpack_pat_cases (b : BitVec 64) :
    (∃ neg x, b = signedFields 64 neg x ∧ x < 2047 * 2 ^ 52 ∧ unpack (.pat b) = .fin neg (fieldsMag 52 x)) ∨
      (∃ neg, b = signedFields 64 neg (2047 * 2 ^ 52) ∧ unpack (.pat b) = .inf neg) ∨ unpack (.pat b) = .nan := by
  obtain ⟨neg, x, hx, rfl⟩ := exists_eq_signedFields (w := 64) (by decide) b
  rw [unpack_signedFields neg hx]
  rcases Nat.lt_trichotomy x (2047 * 2 ^ 52) with hlt | rfl | hgt
  · exact .inl ⟨neg, x, rfl, hlt, if_pos hlt⟩
  · exact .inr (.inl ⟨neg, rfl, rfl⟩)
  · exact .inr (.inr (by rw [if_neg (by omega), if_neg (by omega)]))

/-- A finite `W` value has a magnitude of the format, below `2^1024`. -/
theorem unpack_fin_range {v : W} {neg : Bool} {m : Nat} (h : unpack v = .fin neg m) :
    Representable 53 0 m ∧ m < 2 ^ 2098 := by
  cases v with
  | nan => rw [unpack_nan] at h; cases h
  | pat b =>
    rcases unpack_pat_cases b with ⟨p, x, -, hx, hb⟩ | ⟨p, -, hb⟩ | hb <;> rw [hb] at h <;> cases h
    exact ⟨fieldsMag_representable 52 x, (fieldsMag_lt_iff_finite x).mpr hx⟩

@[simp] theorem unpack_pack_nan : unpack (pack .nan) = .nan := by rw [pack_nan, unpack_nan]

@[simp] theorem unpack_pack_inf (neg : Bool) : unpack (pack (.inf neg)) = .inf neg := by
  rw [pack_inf, unpack_signedFields neg (by decide)]
  rfl

theorem unpack_pack_fin {m : Nat} (neg : Bool) (hm : Representable 53 0 m) (hlt : m < 2 ^ 2098) :
    unpack (pack (.fin neg m)) = .fin neg m := by
  rw [pack_fin, unpack_signedFields_fin neg ((fieldsMag_lt_iff_finite _).mp (by rwa [fieldsMag_magFields hm])), fieldsMag_magFields hm]

theorem pack_unpack {b : BitVec 64} (h : unpack (.pat b) ≠ .nan) : pack (unpack (.pat b)) = .pat b := by
  rcases unpack_pat_cases b with ⟨neg, x, rfl, -, hb⟩ | ⟨neg, rfl, hb⟩ | hb
  · rw [hb, pack_fin, magFields_fieldsMag]
  · rw [hb, pack_inf]
  · exact absurd hb h

/-- Settles O51: the fields determine the magnitude and the magnitude its fields. -/
theorem packAndUnpackAreInverse : Obligations.PackAndUnpackAreInverse := by
  unfold Obligations.PackAndUnpackAreInverse
  exact ⟨fun neg m hm hlt => unpack_pack_fin neg hm hlt, unpack_pack_inf, fun b hb => pack_unpack hb⟩

end Sys2Proof.Machine
end

section
/-! PROOFS. The arithmetic of the working format (00_scope.md rules R11 to R13): `fl` as the one rounding, the four operations,
integers and `floorW`. -/

namespace Sys2Proof.Machine

/-! ## The rounding `fl` -/

/-- Rounding overflows exactly from halfway between the largest finite `W` value and `2^1024` on. -/
theorem overflow_iff (p : Nat) {q : Nat} (hq : 0 < q) :
    2 ^ 2098 ≤ roundNearest p q (lastPlace 53 0 p q) ↔ (2 ^ 2098 - 2 ^ 2044) * q ≤ p := by
  have htie := le_roundNearest_iff_tie_le (prec := 53) (low := 0) (p := p) (u := 2044) (by decide) hq (by decide)
  simpa only [Nat.reduceAdd] using htie

theorem fl_eq (neg : Bool) (p : Nat) {q : Nat} (hq : 0 < q) :
    fl neg p q =
      if (2 ^ 2098 - 2 ^ 2044) * q ≤ p then .inf neg else .fin neg (roundNearest p q (lastPlace 53 0 p q)) := by
  unfold fl overflowW
  simp only [overflow_iff p hq]

theorem fl_of_representable {m : Nat} (neg : Bool) (hm : Representable 53 0 m) (hlt : m < 2 ^ 2098) :
    fl neg m 1 = .fin neg m := by
  unfold fl overflowW
  simp only [hm.roundNearest_eq_self (by decide), if_neg hlt.not_ge]

/-- The last fraction bit of a packed rounding is the last bit kept. -/
theorem magFields_roundNearest_mod_two {fb low p q : Nat} (hfb : 1 ≤ fb) (hq : 0 < q)
    (heven : roundNearest p q (lastPlace (fb + 1) low p q) / 2 ^ lastPlace (fb + 1) low p q % 2 = 0) :
    magFields fb (roundNearest p q (lastPlace (fb + 1) low p q) / 2 ^ low) % 2 = 0 := by
  rw [roundNearest_div_pow] at heven
  rw [roundNearest_eq, Nat.mul_div_assoc _ (pow_dvd_pow 2 (low_le_lastPlace ..)),
    Nat.pow_div (low_le_lastPlace ..) two_pos]
  exact magFields_mod_two _ hfb (nearestFactor_lastPlace_le (fb + 1) low p hq) heven

/-- Rule R11: packing `fl` rounds the exact value once. -/
theorem roundsTo_pack_fl (neg : Bool) (p : Nat) {q : Nat} (hq : 0 < q) : RoundsTo neg p q (pack (fl neg p q)) := by
  rw [fl_eq neg p hq]
  refine ⟨fun hge => by rw [if_pos hge, unpack_pack_inf], fun hlt => ?_⟩
  rw [if_neg hlt.not_ge]
  have hrep := roundNearest_representable (prec := 53) 0 p (by decide) hq
  have hfin : roundNearest p q (lastPlace 53 0 p q) < 2 ^ 2098 := by
    rw [← not_le, overflow_iff p hq, not_le]
    exact hlt
  refine ⟨_, _, pack_fin neg _, unpack_pack_fin neg hrep hfin, hrep, fun z hz => ?_⟩
  obtain ⟨hnear, htie⟩ := roundNearest_nearest (p := p) hz (by decide) hq
  refine ⟨hnear, fun heq hne => ?_⟩
  have heven := magFields_roundNearest_mod_two (fb := 52) (by decide) hq (htie heq hne)
  rw [pow_zero, Nat.div_one] at heven
  have hfields : magFields 52 (roundNearest p q (lastPlace 53 0 p q)) < 2047 * 2 ^ 52 :=
    (fieldsMag_lt_iff_finite _).mp (by rwa [fieldsMag_magFields hrep])
  exact signedFields_getLsbD_zero (by decide) neg (by omega) heven

/-! ## The four operations -/

theorem isNaN_iff (v : W) : isNaN v = true ↔ unpack v = .nan := by
  unfold isNaN
  cases unpack v <;> simp

@[simp] theorem isNaN_pack_nan : isNaN (pack .nan) = true := (isNaN_iff _).mpr unpack_pack_nan

theorem unpack_pack_zero (neg : Bool) : unpack (pack (.fin neg 0)) = .fin neg 0 :=
  unpack_pack_fin neg (representable_zero 53 0) (pow_pos two_pos 2098)

theorem addW_eq {a b : W} {x y : Num} (ha : unpack a = x) (hb : unpack b = y) : addW a b = pack (addNum x y) := by
  rw [addW, ha, hb]

theorem subW_eq {a b : W} {x y : Num} (ha : unpack a = x) (hb : unpack b = y) :
    subW a b = pack (addNum x (negNum y)) := by
  rw [subW, ha, hb]

theorem mulW_eq {a b : W} {x y : Num} (ha : unpack a = x) (hb : unpack b = y) : mulW a b = pack (mulNum x y) := by
  rw [mulW, ha, hb]

theorem divW_eq {a b : W} {x y : Num} (ha : unpack a = x) (hb : unpack b = y) : divW a b = pack (divNum x y) := by
  rw [divW, ha, hb]

@[simp] theorem addNum_nan_right (x : Num) : addNum x .nan = .nan := by cases x <;> rfl

@[simp] theorem mulNum_nan_right (x : Num) : mulNum x .nan = .nan := by cases x <;> rfl

@[simp] theorem divNum_nan_right (x : Num) : divNum x .nan = .nan := by cases x <;> rfl

section FiniteSum

variable {p q : Bool} {m n : Nat}

theorem addNum_fin_same_sign (h : p = q) : addNum (.fin p m) (.fin q n) = fl p (m + n) 1 := if_pos h

theorem addNum_fin_cancel (h : p ≠ q) (hmn : m = n) : addNum (.fin p m) (.fin q n) = .fin false 0 := by
  rw [addNum, if_neg h, if_pos hmn]

theorem addNum_fin_of_gt (h : p ≠ q) (hmn : n < m) : addNum (.fin p m) (.fin q n) = fl p (m - n) 1 := by
  rw [addNum, if_neg h, if_neg hmn.ne', if_pos hmn]

theorem addNum_fin_of_lt (h : p ≠ q) (hmn : m < n) : addNum (.fin p m) (.fin q n) = fl q (n - m) 1 := by
  rw [addNum, if_neg h, if_neg hmn.ne, if_neg hmn.not_gt]

/-- The sum of two finite numbers: the exact sum or difference of the magnitudes, rounded once. -/
theorem roundsTo_addNum_fin :
    (p = q → RoundsTo p (m + n) 1 (pack (addNum (.fin p m) (.fin q n)))) ∧
      (p ≠ q → n < m → RoundsTo p (m - n) 1 (pack (addNum (.fin p m) (.fin q n)))) ∧
      (p ≠ q → m < n → RoundsTo q (n - m) 1 (pack (addNum (.fin p m) (.fin q n)))) ∧
      (p ≠ q → m = n → unpack (pack (addNum (.fin p m) (.fin q n))) = .fin false 0) := by
  refine ⟨fun h => ?_, fun h hmn => ?_, fun h hmn => ?_, fun h hmn => ?_⟩
  · rw [addNum_fin_same_sign h]
    exact roundsTo_pack_fl _ _ one_pos
  · rw [addNum_fin_of_gt h hmn]
    exact roundsTo_pack_fl _ _ one_pos
  · rw [addNum_fin_of_lt h hmn]
    exact roundsTo_pack_fl _ _ one_pos
  · rw [addNum_fin_cancel h hmn, unpack_pack_zero]

theorem roundsTo_mulNum_fin : RoundsTo (p ^^ q) (m * n) (2 ^ 1074) (pack (mulNum (.fin p m) (.fin q n))) :=
  roundsTo_pack_fl _ _ (pow_pos two_pos 1074)

theorem roundsTo_divNum_fin (hn : n ≠ 0) :
    RoundsTo (p ^^ q) (m * 2 ^ 1074) n (pack (divNum (.fin p m) (.fin q n))) := by
  rw [divNum, if_neg hn]
  exact roundsTo_pack_fl _ _ (Nat.pos_of_ne_zero hn)

end FiniteSum

/-- Settles O52: each operation is `pack` of one `fl`, or of the special value IEEE 754 gives. -/
theorem arithmeticRoundsOnceWithSpecialCases : Obligations.ArithmeticRoundsOnceWithSpecialCases := by
  unfold Obligations.ArithmeticRoundsOnceWithSpecialCases
  refine ⟨fun a b p q m n ha hb => ?finite, fun a b p q m ha hb => ?infFinite, fun a b p q ha hb => ?infInf,
    fun a b h => ?nanOperand, fun a b neg ha hb => ?infMinusInf, fun a b p q ha hb => ?zeroTimesInf,
    fun a b p q ha hb => ?zeroByZero, fun a b p q ha hb => ?infByInf, fun a b p q m ha hm hb => ?byZero⟩
  case finite =>
    rw [addW_eq ha hb, subW_eq ha hb, mulW_eq ha hb, divW_eq ha hb]
    obtain ⟨addSame, addGt, addLt, addZero⟩ := roundsTo_addNum_fin (p := p) (q := q) (m := m) (n := n)
    obtain ⟨subSame, subGt, subLt, subZero⟩ := roundsTo_addNum_fin (p := p) (q := !q) (m := m) (n := n)
    have hsign : p ≠ q → p = !q := Bool.eq_not_of_ne
    have hsign' : p = q → p ≠ !q := by rintro rfl; simp
    exact ⟨addSame, addGt, addLt, addZero, fun h => subSame (hsign h), fun h => subGt (hsign' h),
      fun h => subLt (hsign' h), fun h => subZero (hsign' h), roundsTo_mulNum_fin, roundsTo_divNum_fin⟩
  case infFinite =>
    rw [addW_eq ha hb, addW_eq hb ha, subW_eq ha hb, subW_eq hb ha, mulW_eq ha hb, mulW_eq hb ha, divW_eq ha hb,
      divW_eq hb ha]
    refine ⟨unpack_pack_inf p, unpack_pack_inf p, unpack_pack_inf p, unpack_pack_inf (!p), fun hm => ?_,
      unpack_pack_inf (p ^^ q), ?_⟩
    · rw [mulNum, mulNum, if_neg hm, if_neg hm, Bool.xor_comm q p]
      exact ⟨unpack_pack_inf _, unpack_pack_inf _⟩
    · rw [divNum, Bool.xor_comm q p, unpack_pack_zero]
  case infInf =>
    rw [addW_eq ha hb, subW_eq ha hb, mulW_eq ha hb]
    refine ⟨?_, ?_, ?_, unpack_pack_inf (p ^^ q)⟩
    · rintro rfl
      simp [addNum]
    · intro h
      simp [addNum, h]
    · intro h
      simp [addNum, negNum, Bool.eq_not_of_ne h]
  case nanOperand =>
    rw [isNaN_iff, isNaN_iff] at h
    rcases h with ha | hb
    · rw [addW_eq ha rfl, subW_eq ha rfl, mulW_eq ha rfl, divW_eq ha rfl]
      exact ⟨isNaN_pack_nan, isNaN_pack_nan, isNaN_pack_nan, isNaN_pack_nan⟩
    · rw [addW_eq rfl hb, subW_eq rfl hb, mulW_eq rfl hb, divW_eq rfl hb]
      simp [negNum]
  case infMinusInf =>
    rw [subW_eq ha hb]
    simp [addNum, negNum]
  case zeroTimesInf =>
    rw [mulW_eq ha hb, mulW_eq hb ha]
    simp [mulNum]
  case zeroByZero =>
    rw [divW_eq ha hb]
    simp [divNum]
  case infByInf =>
    rw [divW_eq ha hb]
    simp [divNum]
  case byZero =>
    rw [divW_eq ha hb]
    simp [divNum, hm]

/-! ## Integers and `floorW` -/

theorem representable_of_le {k : Nat} (s : Nat) (hk : k ≤ 2 ^ 53) : Representable 53 0 (k * 2 ^ s) :=
  representable_mul_pow_of_le (by decide) hk s.zero_le

theorem mul_one_lt_overflow {k : Nat} (hk : k ≤ 2 ^ 53) : k * 2 ^ 1074 < 2 ^ 2098 := by
  calc k * 2 ^ 1074 ≤ 2 ^ 53 * 2 ^ 1074 := Nat.mul_le_mul_right _ hk
    _ = 2 ^ (53 + 1074) := (pow_add 2 53 1074).symm
    _ < 2 ^ 2098 := pow_lt_pow_right₀ one_lt_two (by decide)

/-- Settles O53: below `2^53` an integer is a magnitude of the format, and rounds to itself. -/
theorem integersConvertExactly : Obligations.IntegersConvertExactly := by
  unfold Obligations.IntegersConvertExactly
  intro n hn
  have hrep := representable_of_le 1074 hn.le
  have hlt := mul_one_lt_overflow hn.le
  rw [toW, fl_of_representable _ hrep hlt, unpack_pack_fin _ hrep hlt]

/-- Counted in whole ones, the floor of a positive value is the quotient. -/
theorem floorMag_false_spec (m : Nat) :
    floorMag false m * 2 ^ 1074 ≤ m ∧ m < (floorMag false m + 1) * 2 ^ 1074 := by
  simp only [floorMag, Bool.false_eq_true, if_false]
  exact ⟨Nat.div_mul_le_self _ _, Nat.lt_mul_of_div_lt (Nat.lt_succ_self _) (pow_pos two_pos 1074)⟩

/-- The floor of a negative value has the magnitude of the quotient rounded up. -/
theorem floorMag_true_spec (m : Nat) :
    m ≤ floorMag true m * 2 ^ 1074 ∧ floorMag true m * 2 ^ 1074 < m + 2 ^ 1074 := by
  have hpos : 0 < 2 ^ 1074 := pow_pos two_pos 1074
  simp only [floorMag, if_true]
  generalize 2 ^ 1074 = one at hpos
  have hdiv := Nat.div_add_mod' (m + (one - 1)) one
  have hmod := Nat.mod_lt (m + (one - 1)) hpos
  omega

theorem floorMag_le {m j : Nat} (neg : Bool) (h : m ≤ j * 2 ^ 1074) : floorMag neg m ≤ j := by
  refine Nat.lt_succ_iff.mp (lt_of_mul_lt_mul_right' (a := 2 ^ 1074) ?_)
  rw [Nat.succ_mul]
  have hpos : 0 < 2 ^ 1074 := pow_pos two_pos 1074
  cases neg
  case false => exact ((floorMag_false_spec m).1.trans h).trans_lt (Nat.lt_add_of_pos_right hpos)
  case true => exact (floorMag_true_spec m).2.trans_le (Nat.add_le_add_right h _)

theorem floorMag_multiple (neg : Bool) (j : Nat) : floorMag neg (j * 2 ^ 1074) = j := by
  refine le_antisymm (floorMag_le neg le_rfl) ?_
  have hpos : 0 < 2 ^ 1074 := pow_pos two_pos 1074
  cases neg
  case false => exact Nat.lt_succ_iff.mp (lt_of_mul_lt_mul_right' (floorMag_false_spec _).2)
  case true => exact Nat.le_of_mul_le_mul_right (floorMag_true_spec _).1 hpos

/-- The floor of a finite `W` value is a `W` value: it is the value itself, or at most `2^53` ones. -/
theorem floorMag_representable {m : Nat} (neg : Bool) (hm : Representable 53 0 m) (hlt : m < 2 ^ 2098) :
    Representable 53 0 (floorMag neg m * 2 ^ 1074) ∧ floorMag neg m * 2 ^ 1074 < 2 ^ 2098 := by
  obtain ⟨k, s, hk, -, hmk⟩ := id hm
  rcases le_or_gt 1074 s with hs | hs
  · have hwhole : m = k * 2 ^ (s - 1074) * 2 ^ 1074 := by
      rw [hmk, Nat.mul_assoc, ← pow_add, Nat.sub_add_cancel hs]
    have hself : floorMag neg m * 2 ^ 1074 = m := by
      rw [hwhole, floorMag_multiple]
    rw [hself]
    exact ⟨hm, hlt⟩
  · have hsmall : floorMag neg m ≤ 2 ^ 53 := by
      refine floorMag_le neg ?_
      rw [hmk]
      exact Nat.mul_le_mul hk.le (pow_le_pow_right₀ one_le_two hs.le)
    exact ⟨representable_of_le 1074 hsmall, mul_one_lt_overflow hsmall⟩

/-- The floor as a signed integer. -/
def floorSigned (neg : Bool) (m : Nat) : Int := if neg then -(floorMag neg m : Int) else (floorMag neg m : Int)

theorem floorSigned_spec (neg : Bool) (m : Nat) :
    floorSigned neg m * 2 ^ 1074 ≤ (if neg = true then -(m : Int) else (m : Int)) ∧
      (if neg = true then -(m : Int) else (m : Int)) < (floorSigned neg m + 1) * 2 ^ 1074 := by
  have hfalse := floorMag_false_spec m
  have htrue := floorMag_true_spec m
  have hone : (2 : Int) ^ 1074 = (2 ^ 1074 : Nat) := by rw [Nat.cast_pow, Nat.cast_ofNat]
  rw [hone]
  generalize 2 ^ 1074 = one at hfalse htrue
  zify at hfalse htrue
  cases neg
  case false => simpa [floorSigned] using hfalse
  case true =>
    simp only [floorSigned, if_true, neg_mul, add_mul, one_mul, neg_le_neg_iff]
    omega

theorem floorInt_fin {v : W} {neg : Bool} {m : Nat} (h : unpack v = .fin neg m) :
    floorInt v = some (floorSigned neg m) := by
  rw [floorInt, h]
  rfl

theorem floorSigned_natAbs (neg : Bool) (m : Nat) : (floorSigned neg m).natAbs = floorMag neg m := by
  unfold floorSigned
  generalize floorMag neg m = f
  cases neg
  · rfl
  · exact Int.natAbs_neg f

theorem floorW_fin {v : W} {neg : Bool} {m : Nat} (h : unpack v = .fin neg m) :
    floorW v = pack (.fin neg (floorMag neg m * 2 ^ 1074)) := by
  rw [floorW, h]

theorem floorW_nan {v : W} (h : unpack v = .nan) : floorW v = .nan := by rw [floorW, h]

theorem floorW_inf {v : W} {neg : Bool} (h : unpack v = .inf neg) : floorW v = pack (.inf neg) := by rw [floorW, h]

/-- The floor of a finite value, in both of its readings. -/
theorem floor_fin {v : W} {neg : Bool} {m : Nat} (h : unpack v = .fin neg m) :
    floorInt v = some (floorSigned neg m) ∧
      unpack (floorW v) = .fin neg ((floorSigned neg m).natAbs * 2 ^ 1074) := by
  obtain ⟨hm, hlt⟩ := unpack_fin_range h
  obtain ⟨hrep, hfloor⟩ := floorMag_representable neg hm hlt
  exact ⟨floorInt_fin h, by rw [floorW_fin h, unpack_pack_fin neg hrep hfloor, floorSigned_natAbs]⟩

/-- Settles O54: the floor of the magnitude, taken downwards for its sign, is exact. -/
theorem floorIsTheLargestIntegerBelow : Obligations.FloorIsTheLargestIntegerBelow := by
  unfold Obligations.FloorIsTheLargestIntegerBelow
  refine ⟨fun v neg m hv => ?finite, fun v hv => ?nan, fun v neg hv => ?inf⟩
  case finite =>
    obtain ⟨hint, hword⟩ := floor_fin hv
    obtain ⟨hlower, hupper⟩ := floorSigned_spec neg m
    exact ⟨floorSigned neg m, hint, hlower, hupper, hword⟩
  case nan => rw [floorW_nan ((isNaN_iff v).mp hv), isNaN_iff, unpack_nan]
  case inf => rw [floorW_inf hv, unpack_pack_inf]

end Sys2Proof.Machine
end

section
/-! PROOFS. The sample format (00_scope.md rules R9, R14): packing and unpacking binary32, `narrow` in both modes, `widen`. -/

namespace Sys2Proof.Machine

/-! ## Packing and unpacking binary32 -/

theorem packSample_inf (neg : Bool) : packSample (.inf neg) = .pat (signedFields 32 neg (255 * 2 ^ 23)) := by
  unfold packSample; rfl

theorem packSample_fin (neg : Bool) (m : Nat) :
    packSample (.fin neg m) = .pat (signedFields 32 neg (magFields 23 (m / 2 ^ 925))) := by
  unfold packSample; rfl

theorem unpackSample_nan : unpackSample .nan = .nan := by unfold unpackSample; rfl

theorem unpackSample_signedFields {x : Nat} (neg : Bool) (hx : x < 2 ^ 31) :
    unpackSample (.pat (signedFields 32 neg x)) =
      if x < 255 * 2 ^ 23 then .fin neg (fieldsMag 23 x * 2 ^ 925)
      else if x = 255 * 2 ^ 23 then .inf neg else .nan := by
  have hmsb := signedFields_msb (w := 32) (by decide) neg hx
  have hmod := signedFields_toNat_mod (w := 32) (by decide) neg hx
  have hexp : (signedFields 32 neg x).toNat / 2 ^ 23 % 2 ^ 8 = x / 2 ^ 23 := by omega
  have hfrac : (signedFields 32 neg x).toNat % 2 ^ 23 = x % 2 ^ 23 := by omega
  unfold unpackSample fieldsMag
  simp only [hmsb, hexp, hfrac]
  rcases Nat.lt_trichotomy x (255 * 2 ^ 23) with hlt | rfl | hgt
  · rw [if_pos hlt, if_neg (by omega), apply_ite (fun k => Num.fin neg (k * 2 ^ 925))]
  · rfl
  · rw [if_neg hgt.not_gt, if_neg hgt.ne', if_pos (by omega), if_neg (by omega)]

theorem unpackSample_signedFields_fin {x : Nat} (neg : Bool) (hx : x < 255 * 2 ^ 23) :
    unpackSample (.pat (signedFields 32 neg x)) = .fin neg (fieldsMag 23 x * 2 ^ 925) := by
  rw [unpackSample_signedFields neg (by omega), if_pos hx]

theorem unpackSample_signedFields_inf (neg : Bool) : unpackSample (.pat (signedFields 32 neg (255 * 2 ^ 23))) = .inf neg := by
  rw [unpackSample_signedFields neg (by decide)]
  rfl

/-- What a sample pattern stands for, with its fields in sight. -/
theorem unpackSample_pat_cases (b : BitVec 32) :
    (∃ neg x, b = signedFields 32 neg x ∧ x < 255 * 2 ^ 23 ∧ unpackSample (.pat b) = .fin neg (fieldsMag 23 x * 2 ^ 925)) ∨
      (∃ neg, b = signedFields 32 neg (255 * 2 ^ 23) ∧ unpackSample (.pat b) = .inf neg) ∨
      unpackSample (.pat b) = .nan := by
  obtain ⟨neg, x, hx, rfl⟩ := exists_eq_signedFields (w := 32) (by decide) b
  rw [unpackSample_signedFields neg hx]
  rcases Nat.lt_trichotomy x (255 * 2 ^ 23) with hlt | rfl | hgt
  · exact .inl ⟨neg, x, rfl, hlt, if_pos hlt⟩
  · exact .inr (.inl ⟨neg, rfl, rfl⟩)
  · exact .inr (.inr (by rw [if_neg (by omega), if_neg (by omega)]))

/-! ## Magnitudes of the sample format -/

theorem sample_fields_lt_iff_finite (x : Nat) : fieldsMag 23 x * 2 ^ 925 < 2 ^ 1202 ↔ x < 255 * 2 ^ 23 := by
  have hsplit := pow_add 2 277 925
  simp only [Nat.reduceAdd] at hsplit
  rw [hsplit, mul_lt_mul_iff_left₀ (pow_pos two_pos 925)]
  simpa only [Nat.reduceAdd] using fieldsMag_lt_iff 23 253 x

theorem sample_fields_representable (x : Nat) : Representable 24 925 (fieldsMag 23 x * 2 ^ 925) := by
  obtain ⟨k, t, hk, -, hkt⟩ := fieldsMag_representable 23 x
  rw [hkt, Nat.mul_assoc, ← pow_add]
  exact representable_mul_pow hk (Nat.le_add_left _ _)

/-- A magnitude of the sample format is the one its fields stand for. -/
theorem sample_fieldsMag_magFields {r : Nat} (hr : Representable 24 925 r) :
    fieldsMag 23 (magFields 23 (r / 2 ^ 925)) * 2 ^ 925 = r := by
  obtain ⟨k, t, hk, ht, rfl⟩ := hr
  have hunits : k * 2 ^ t = k * 2 ^ (t - 925) * 2 ^ 925 := by
    rw [Nat.mul_assoc, ← pow_add, Nat.sub_add_cancel ht]
  have hrep : Representable (23 + 1) 0 (k * 2 ^ (t - 925)) := representable_mul_pow hk (Nat.zero_le _)
  rw [hunits, Nat.mul_div_cancel _ (pow_pos two_pos 925), fieldsMag_magFields hrep]

theorem sample_magFields_lt {r : Nat} (hr : Representable 24 925 r) (hlt : r < 2 ^ 1202) :
    magFields 23 (r / 2 ^ 925) < 255 * 2 ^ 23 :=
  (sample_fields_lt_iff_finite _).mp (by rwa [sample_fieldsMag_magFields hr])

theorem unpackSample_packSample_fin {r : Nat} (neg : Bool) (hr : Representable 24 925 r) (hlt : r < 2 ^ 1202) :
    unpackSample (packSample (.fin neg r)) = .fin neg r := by
  rw [packSample_fin, unpackSample_signedFields_fin neg (sample_magFields_lt hr hlt), sample_fieldsMag_magFields hr]

@[simp] theorem unpackSample_packSample_inf (neg : Bool) : unpackSample (packSample (.inf neg)) = .inf neg := by
  rw [packSample_inf, unpackSample_signedFields_inf]

theorem packSample_unpackSample {b : BitVec 32} (h : unpackSample (.pat b) ≠ .nan) :
    packSample (unpackSample (.pat b)) = .pat b := by
  rcases unpackSample_pat_cases b with ⟨neg, x, rfl, -, hb⟩ | ⟨neg, rfl, hb⟩ | hb
  · rw [hb, packSample_fin, Nat.mul_div_cancel _ (pow_pos two_pos 925), magFields_fieldsMag]
  · rw [hb, packSample_inf]
  · exact absurd hb h

/-- A finite sample has a magnitude of its format, below `2^128`. -/
theorem unpackSample_fin_range {b : BitVec 32} {neg : Bool} {r : Nat} (h : unpackSample (.pat b) = .fin neg r) :
    Representable 24 925 r ∧ r < 2 ^ 1202 := by
  rcases unpackSample_pat_cases b with ⟨p, x, -, hx, hb⟩ | ⟨p, -, hb⟩ | hb <;> rw [hb] at h <;> cases h
  exact ⟨sample_fields_representable x, (sample_fields_lt_iff_finite x).mpr hx⟩

/-! ## Narrowing -/

theorem narrow_nan (mode : NarrowMode) {v : W} (h : unpack v = .nan) : narrow mode v = .nan := by rw [narrow, h]

theorem narrow_inf (mode : NarrowMode) {v : W} {neg : Bool} (h : unpack v = .inf neg) :
    narrow mode v = packSample (.inf neg) := by rw [narrow, h]

theorem narrow_fin (mode : NarrowMode) {v : W} {neg : Bool} {m : Nat} (h : unpack v = .fin neg m) :
    narrow mode v = packSample (roundSample mode neg m) := by rw [narrow, h]

/-- Rounding to nearest overflows exactly from halfway between the largest finite sample and `2^128` on. -/
theorem sample_overflow_iff (m : Nat) :
    2 ^ 1202 ≤ roundNearest m 1 (lastPlace 24 925 m 1) ↔ 2 ^ 1202 - 2 ^ 1177 ≤ m := by
  have htie :=
    le_roundNearest_iff_tie_le (prec := 24) (low := 925) (p := m) (u := 1177) (by decide) one_pos (by decide)
  simpa only [Nat.reduceAdd, Nat.mul_one] using htie

theorem roundSample_rne (neg : Bool) (m : Nat) :
    roundSample .rne neg m =
      if 2 ^ 1202 - 2 ^ 1177 ≤ m then .inf neg else .fin neg (roundNearest m 1 (lastPlace 24 925 m 1)) := by
  unfold roundSample overflowS
  simp only [sample_overflow_iff]

/-- Settles O55: below the tie the rounding to 24 bits is packed exactly, and its last bit is the last fraction bit. -/
theorem narrowRoundsToNearest : Obligations.NarrowRoundsToNearest := by
  unfold Obligations.NarrowRoundsToNearest
  intro v neg m hv
  rw [narrow_fin .rne hv, roundSample_rne]
  refine ⟨fun hlt => ?_, fun hge => by rw [if_pos hge, unpackSample_packSample_inf]⟩
  rw [if_neg hlt.not_ge]
  have hrep := roundNearest_representable (prec := 24) 925 m (by decide) one_pos
  have hfin : roundNearest m 1 (lastPlace 24 925 m 1) < 2 ^ 1202 := by
    rw [← not_le, sample_overflow_iff, not_le]
    exact hlt
  refine ⟨_, _, packSample_fin neg _, unpackSample_packSample_fin neg hrep hfin, hrep, fun z hz => ?_⟩
  have hround := roundNearest_nearest (p := m) hz (by decide) one_pos
  simp only [Nat.cast_one, mul_one] at hround
  obtain ⟨hnear, htie⟩ := hround
  refine ⟨hnear, fun heq hne => ?_⟩
  have heven := magFields_roundNearest_mod_two (fb := 23) (by decide) one_pos (htie heq hne)
  have hfields := sample_magFields_lt hrep hfin
  exact signedFields_getLsbD_zero (by decide) neg (by omega) heven

/-- The largest finite sample is the largest magnitude of the format below `2^128`. -/
theorem largestS_spec :
    Representable 24 925 largestS ∧ largestS < 2 ^ 1202 ∧ ∀ z, Representable 24 925 z → z < 2 ^ 1202 → z ≤ largestS := by
  have hsplit := pow_add 2 24 1178
  simp only [Nat.reduceAdd] at hsplit
  unfold largestS
  refine ⟨representable_mul_pow (by decide) (by decide), ?_, fun z hz hlt => ?_⟩
  · rw [hsplit]
    exact mul_lt_mul_of_pos_right (by decide) (pow_pos two_pos 1178)
  · refine hz.le_of_lt_pow (by decide) ?_
    simpa only [Nat.reduceAdd] using hlt

theorem roundSample_rtz (neg : Bool) (m : Nat) :
    roundSample .rtz neg m = .fin neg (min largestS (roundDown m 1 (lastPlace 24 925 m 1))) := by rfl

/-- Settles O56: rounding down, capped at the largest finite sample. -/
theorem narrowTowardZeroNeverOverflows : Obligations.NarrowTowardZeroNeverOverflows := by
  unfold Obligations.NarrowTowardZeroNeverOverflows
  intro v neg m hv
  obtain ⟨hlargest, hfin, hmax⟩ := largestS_spec
  have hdown := roundDown_representable 24 925 m one_pos
  have hle := roundDown_mul_le m 1 (lastPlace 24 925 m 1)
  have hrep : Representable 24 925 (min largestS (roundDown m 1 (lastPlace 24 925 m 1))) := by
    rcases min_choice largestS (roundDown m 1 (lastPlace 24 925 m 1)) with h | h <;> rwa [h]
  rw [narrow_fin .rtz hv, roundSample_rtz]
  refine ⟨_, unpackSample_packSample_fin neg hrep ((min_le_left _ _).trans_lt hfin), ?_, fun z hz hlt hzm => ?_⟩
  · exact (min_le_right _ _).trans (by omega)
  · exact le_min (hmax z hz hlt) (hz.le_roundDown (by decide) one_pos (by omega))

/-! ## Widening -/

/-- A finite magnitude the sample format has is rounded to itself in both modes. -/
theorem roundSample_of_representable (mode : NarrowMode) (neg : Bool) {r : Nat} (hr : Representable 24 925 r)
    (hlt : r < 2 ^ 1202) : roundSample mode neg r = .fin neg r := by
  cases mode
  case rne =>
    have hself := hr.roundNearest_eq_self (by decide)
    have hno : ¬ 2 ^ 1202 - 2 ^ 1177 ≤ r := by rw [← sample_overflow_iff, hself]; exact hlt.not_ge
    rw [roundSample_rne, if_neg hno, hself]
  case rtz =>
    obtain ⟨-, -, hmax⟩ := largestS_spec
    rw [roundSample_rtz, hr.roundDown_eq_self (by decide), min_eq_right (hmax r hr hlt)]

/-- Every sample is a `W` value, so widening is exact. -/
theorem unpack_widen (b : BitVec 32) : unpack (widen (.pat b)) = unpackSample (.pat b) := by
  rw [widen]
  cases h : unpackSample (.pat b) with
  | nan => exact unpack_pack_nan
  | inf neg => exact unpack_pack_inf neg
  | fin neg r =>
    obtain ⟨hr, hlt⟩ := unpackSample_fin_range h
    exact unpack_pack_fin neg (hr.mono (by decide) (by decide))
      (hlt.trans (pow_lt_pow_right₀ one_lt_two (by decide)))

/-- Narrowing any `W` value that stands for a sample's number gives the sample. -/
theorem narrow_of_unpack_eq (mode : NarrowMode) {v : W} {b : BitVec 32} (h : unpack v = unpackSample (.pat b))
    (hb : unpackSample (.pat b) ≠ .nan) : narrow mode v = .pat b := by
  rw [← packSample_unpackSample hb]
  cases hs : unpackSample (.pat b) with
  | nan => exact absurd hs hb
  | inf neg => exact narrow_inf mode (h.trans hs)
  | fin neg r =>
    obtain ⟨hr, hlt⟩ := unpackSample_fin_range hs
    rw [narrow_fin mode (h.trans hs), roundSample_of_representable mode neg hr hlt]

theorem widen_nan : widen .nan = .nan := by rw [widen, unpackSample_nan, pack_nan]

/-- Settles O57: widening keeps the number, and a number of the sample format narrows to itself. -/
theorem widenThenNarrowIsIdentity : Obligations.WidenThenNarrowIsIdentity := by
  unfold Obligations.WidenThenNarrowIsIdentity
  refine ⟨fun mode b hb => narrow_of_unpack_eq mode (unpack_widen b) hb, fun mode v hv => ?_⟩
  rw [narrow_nan mode ((isNaN_iff v).mp hv), widen_nan, isNaN_iff, unpack_nan]

end Sys2Proof.Machine
end

section
/-! PROOFS. The host port and the `REG` space (10_state.md rules R22 to R33, 20_memory.md rules R60, R61): the register
numbers, one transaction case by case, and what a stored write changes and leaves alone. -/

namespace Sys2Proof.Machine

/-! ## Register numbers -/

@[simp] theorem regAt_regNumber (r : RegName) : regAt (regNumber r) = some r := by
  cases r with
  | gain k => revert k; decide
  | coef c => cases c <;> rfl
  | fc k => revert k; decide
  | _ => rfl

/-- Rule R29 with R61: the numbers that hold no state. -/
theorem regAt_eq_none_iff (n : Nat) :
    regAt n = none ↔
      (n = 0x06 ∨ n = 0x07 ∨ (0x0D ≤ n ∧ n ≤ 0x0F) ∨ (0x1A ≤ n ∧ n ≤ 0x1F) ∨ (0x26 ≤ n ∧ n ≤ 0x2F) ∨ 0x3A ≤ n) := by
  by_cases hn : n < 0x40
  · revert n
    decide
  · have hnone : regAt n = none := by
      unfold regAt
      rw [if_neg (by omega), if_neg (by omega), if_neg (by omega), dif_neg (by omega)]
    exact iff_of_true hnone (by omega)

theorem regAt_eq_some_iff {n : Nat} {r : RegName} : regAt n = some r ↔ n = regNumber r := by
  refine ⟨fun h => ?_, fun h => h ▸ regAt_regNumber r⟩
  have hn : n < 0x40 := by
    by_contra hge
    have hnone := (regAt_eq_none_iff n).mpr (by omega)
    rw [h] at hnone
    cases hnone
  have htable : ∀ n < 0x40, ∀ r ∈ regAt n, n = regNumber r := by decide
  exact htable n hn r h

theorem regNumber_ne_zero {r : RegName} (h : r ≠ .cmd) : regNumber r ≠ 0 := by
  intro h0
  have hcmd := regAt_regNumber r
  rw [h0] at hcmd
  exact h (Option.some.inj hcmd).symm

/-! ## One transaction -/

theorem spaceOf_eq_reg_iff (c : BitVec 2) : spaceOf c = .reg ↔ c = 0#2 := by
  revert c
  decide

theorem isCommand_iff (t : Transaction) : isCommand t = true ↔ t.we = true ∧ t.space = 0#2 ∧ t.addr.toNat = 0 := by
  simp [isCommand, spaceOf_eq_reg_iff, and_assoc]

theorem isCommand_eq_false {t : Transaction} (h : t.addr.toNat ≠ 0) : isCommand t = false := by
  simp [isCommand, h]

section
variable {t : Transaction} {s : State} (overlap : Bool)

theorem hostAccess_read (hw : t.we = false) : hostAccess t overlap s = .next (hostRead t s) := by
  simp [hostAccess, hw]

theorem hostAccess_dropped (hw : t.we = true) (hb : s.status.busy = true) : hostAccess t overlap s = .next s := by
  simp [hostAccess, hw, hb]

theorem hostAccess_command (hb : s.status.busy = false) (hc : isCommand t = true) :
    hostAccess t overlap s = presentWord (commandWord t) overlap s := by
  simp [hostAccess, ((isCommand_iff t).mp hc).1, hb, hc]

theorem hostAccess_store (hw : t.we = true) (hb : s.status.busy = false) (hc : isCommand t = false) :
    hostAccess t overlap s = .next (hostStore t s) := by
  simp [hostAccess, hw, hb, hc]

/-- A write that would store nothing changes nothing, busy or idle. -/
theorem hostAccess_ignored (hw : t.we = true) (hc : isCommand t = false) (hs : hostStore t s = s) :
    hostAccess t overlap s = .next s := by
  cases hb : s.status.busy with
  | true => exact hostAccess_dropped overlap hw hb
  | false => rw [hostAccess_store overlap hw hb hc, hs]

end

theorem readData_reg {t : Transaction} (s : State) (h : t.space = 0#2) : readData s t = regRead s t.addr.toNat := by
  simp [readData, (spaceOf_eq_reg_iff _).mpr h]

theorem hostStore_reg {t : Transaction} {r : RegName} (s : State) (h : t.space = 0#2)
    (hr : regAt t.addr.toNat = some r) : hostStore t s = regStore t.wdata s r := by
  simp [hostStore, (spaceOf_eq_reg_iff _).mpr h, hr]

theorem hostStore_unmapped {t : Transaction} (s : State) (h : t.space = 0#2) (hr : regAt t.addr.toNat = none) :
    hostStore t s = s := by
  simp [hostStore, (spaceOf_eq_reg_iff _).mpr h, hr]

/-- A stored write goes to a register, to an entry of the buffer, or nowhere. -/
theorem hostStore_cases (t : Transaction) (s : State) :
    (∃ r, t.space = 0#2 ∧ regAt t.addr.toNat = some r ∧ hostStore t s = regStore t.wdata s r) ∨
      (t.addr.toNat < s.cfg.bufDepth ∧
        hostStore t s = { s with buf := Memory.write s.buf t.addr.toNat (.pat t.wdata) }) ∨
      hostStore t s = s := by
  cases hs : spaceOf t.space with
  | reg =>
    have hspace := (spaceOf_eq_reg_iff _).mp hs
    cases hr : regAt t.addr.toNat with
    | none => exact .inr (.inr (hostStore_unmapped s hspace hr))
    | some r => exact .inl ⟨r, hspace, rfl, hostStore_reg s hspace hr⟩
  | buf =>
    by_cases hd : t.addr.toNat < s.cfg.bufDepth
    · exact .inr (.inl ⟨hd, by simp [hostStore, hs, hd]⟩)
    · exact .inr (.inr (by simp [hostStore, hs, hd]))
  | out => exact .inr (.inr (by simp [hostStore, hs]))
  | reserved => exact .inr (.inr (by simp [hostStore, hs]))

/-! ## Reads of registers -/

theorem regRead_unmapped {s : State} {n : Nat} (h : regAt n = none) : regRead s n = 0#64 := by
  simp [regRead, h]

theorem regRead_idle {s : State} (hb : s.status.busy = false) (r : RegName) :
    regRead s (regNumber r) = regReadIdle s r := by
  simp [regRead, hb]

/-- The constant table reads the same idle and busy (rules R33, R239). -/
theorem regRead_fc (s : State) (k : Fin 10) : regRead s (0x30 + k.val) = fcBits k.val := by
  have hr : regAt (0x30 + k.val) = some (.fc k) := regAt_regNumber (.fc k)
  simp [regRead, hr, regReadBusy, regReadIdle]

theorem fcW_ofNat (k : Fin 10) : fcW (BitVec.ofNat 4 k.val) = .pat (fcBits k.val) := by
  rw [fcW, BitVec.toNat_ofNat, Nat.mod_eq_of_lt (k.isLt.trans (by decide))]

/-- The bits of `STATUS` as a number (rule R23). -/
theorem statusWord_toNat (st : Status) :
    (statusWord st).toNat = st.busy.toNat + 2 * st.done.toNat + 4 * st.err.toNat + 16 * st.errCode.toNat := by
  obtain ⟨busy, done, err, errCode⟩ := st
  revert busy done err errCode
  decide

/-- Every draw for a NaN without a pattern is a NaN pattern (rule R17). -/
theorem isNaN_nanPattern (x : BitVec 64) : isNaN (.pat (nanPattern x)) = true := by
  have hfields : nanPattern x =
      signedFields 64 x.msb (2047 * 2 ^ 52 + (if x.toNat % 2 ^ 52 = 0 then 1 else x.toNat % 2 ^ 52)) := by
    rw [nanPattern, signedFields, Nat.add_assoc]
  rw [isNaN_iff, hfields, unpack_signedFields _ (by split <;> omega), if_neg (by omega), if_neg (by split <;> omega)]

/-- The bits a read returns: the pattern, or some NaN pattern (rules R17, R31). -/
theorem bitsOf_spec (n : Nat) (c : BitVec 64) (w : W) :
    (w = .pat c → bitsOf n w = c) ∧ (w = .nan → isNaN (.pat (bitsOf n w)) = true) :=
  ⟨fun h => by rw [h]; rfl, fun h => by rw [h]; exact isNaN_nanPattern _⟩

/-- What a read transaction on the number of a register returns while idle. -/
theorem hostRead_rdata_of_number {s : State} {t : Transaction} {r : RegName} (hb : s.status.busy = false)
    (hspace : t.space = 0#2) (hn : t.addr.toNat = regNumber r) : (hostRead t s).rdata = regReadIdle s r := by
  rw [hostRead_rdata, readData_reg s hspace, hn, regRead_idle hb]

/-! ## Stored writes -/

/-- A register write changes a parameter, a coefficient or `LEN`, and nothing else. -/
theorem regStore_eq (v : BitVec 64) (s : State) (r : RegName) :
    regStore v s r =
      { s with par := (regStore v s r).par, coef := (regStore v s r).coef, len := (regStore v s r).len } := by
  cases r with
  | len => simp only [regStore]; split <;> rfl
  | _ => rfl

section
variable (v : BitVec 64) (s : State) (r : RegName)

@[simp] theorem regStore_cfg : (regStore v s r).cfg = s.cfg := by rw [regStore_eq]

@[simp] theorem regStore_status : (regStore v s r).status = s.status := by rw [regStore_eq]

@[simp] theorem regStore_buf : (regStore v s r).buf = s.buf := by rw [regStore_eq]

@[simp] theorem regStore_delay : (regStore v s r).delay = s.delay := by rw [regStore_eq]

@[simp] theorem regStore_seq : (regStore v s r).seq = s.seq := by rw [regStore_eq]

@[simp] theorem regStore_draws : (regStore v s r).draws = s.draws := by rw [regStore_eq]

/-- A write to `LEN` keeps it within the buffer (rule R27), every other write leaves it. -/
theorem regStore_len_le (h : s.len.toNat ≤ s.cfg.bufDepth) : (regStore v s r).len.toNat ≤ s.cfg.bufDepth := by
  cases r with
  | len =>
    simp only [regStore]
    split
    · assumption
    · exact h
  | _ => exact h

end

theorem coefGet_coefSet (c : Coef) (v : W) (n m : CoefName) :
    coefGet (coefSet c v n) m = if m = n then v else coefGet c m := by
  cases n <;> cases m <;> rfl

/-- Every register read after a write to one of them. -/
theorem regReadIdle_regStore (v : BitVec 64) (s : State) (r q : RegName) :
    regReadIdle (regStore v s r) q = if q = r then storedReading s v r else regReadIdle s q := by
  cases r with
  | len =>
    simp only [regStore, storedReading]
    split <;> cases q <;> rfl
  | gain k =>
    cases q with
    | gain j =>
      simp only [regStore, regReadIdle, storedReading, RegName.gain.injEq]
      split
      · next hjk => simp [hjk]
      · next hjk => simp [Fin.val_ne_of_ne (Ne.symm hjk)]
    | _ => rfl
  | coef c =>
    cases q with
    | coef d =>
      simp only [regStore, regReadIdle, storedReading, coefGet_coefSet, RegName.coef.injEq]
      split <;> rfl
    | _ => rfl
  | fc k =>
    simp only [regStore, storedReading]
    split
    · next hq => rw [hq]; rfl
    · rfl
  | _ => cases q <;> rfl

/-- The parameter registers, by number: `CTRL`, `RATE`, the five `W` registers, the gain file (rule R37). -/
theorem regNumber_of_regStore_par_ne {v : BitVec 64} {s : State} {r : RegName} (h : (regStore v s r).par ≠ s.par) :
    regNumber r = 0x02 ∨ regNumber r = 0x03 ∨ (0x08 ≤ regNumber r ∧ regNumber r ≤ 0x0C) ∨
      (0x10 ≤ regNumber r ∧ regNumber r ≤ 0x19) := by
  cases r with
  | len =>
    refine absurd ?_ h
    simp only [regStore]
    split <;> rfl
  | gain k =>
    have hk := k.isLt
    simp only [regNumber]
    omega
  | cmd | status | depth | coef | fc => exact absurd rfl h
  | _ => decide

/-! ## The obligations on the port -/

/-- Settles O4: the write is a command word, and without overlap the decoded command runs whole. -/
theorem stepRunsTheDecodedCommand : Obligations.StepRunsTheDecodedCommand := by
  unfold Obligations.StepRunsTheDecodedCommand
  intro s t rest i hin hw hspace haddr hb hdec
  have hcmd : isCommand t = true := (isCommand_iff t).mpr ⟨hw, hspace, by rw [haddr]; rfl⟩
  rw [step_access hin, hostAccess_command (s := { s with inputs := rest }) false hb hcmd, presentWord, commandWord, hdec]
  rfl

/-- Settles O7: the reset state field by field, and the two constant registers through `regRead`. -/
theorem resetLeavesTheResetValues : Obligations.ResetLeavesTheResetValues := by
  unfold Obligations.ResetLeavesTheResetValues
  intro cfg
  have hgain (k : Fin 10) : (State.resetOf cfg).par.gain[k] = 0#64 := Vector.getElem_replicate k.isLt
  have hcoef (c : CoefName) : coefGet (State.resetOf cfg).coef c = .pat 0#64 := by cases c <;> rfl
  have hdepth : regRead (State.resetOf cfg) 0x05 = BitVec.ofNat 64 cfg.bufDepth := regRead_idle rfl .depth
  have hstatus : statusWord Status.idle = 0#64 := by decide
  exact ⟨hstatus, rfl, rfl, rfl, rfl, rfl, rfl, rfl, rfl, rfl, hgain, hcoef, read_nil, rfl, rfl, hdepth,
    fun k => by rw [regRead_fc, fcW_ofNat]⟩

/-- Settles O18: an unmapped number reads zero, and no write there is a command or stores anything. -/
theorem unmappedRegistersReadZero : Obligations.UnmappedRegistersReadZero := by
  unfold Obligations.UnmappedRegistersReadZero
  refine ⟨regAt_eq_none_iff, regAt_regNumber, fun s t o hspace hnone => ⟨fun hw => ?_, fun hw => ?_⟩⟩
  · have hcmd : t.addr.toNat ≠ 0 := fun h0 => by simp [h0, regAt] at hnone
    exact hostAccess_ignored o hw (isCommand_eq_false hcmd) (hostStore_unmapped s hspace hnone)
  · exact ⟨_, hostAccess_read o hw, by rw [hostRead_rdata, readData_reg s hspace, regRead_unmapped hnone]⟩

/-- Settles O19: the ten patterns are those of the integers by evaluation; `FC` registers are read-only. -/
theorem centreFrequencyTable : Obligations.CentreFrequencyTable := by
  unfold Obligations.CentreFrequencyTable
  refine ⟨by decide +kernel, fun s k => by rw [regRead_fc, fcW_ofNat], fun s t o k hw hspace haddr => ?_⟩
  have hr : regAt t.addr.toNat = some (.fc k) := regAt_eq_some_iff.mpr haddr
  exact hostAccess_ignored o hw (isCommand_eq_false (by omega)) (hostStore_reg s hspace hr)

/-- Settles O17: reads go by the register's number; a write and the reads after it register by register. -/
theorem registerReadsAndWritesWhileIdle : Obligations.RegisterReadsAndWritesWhileIdle := by
  unfold Obligations.RegisterReadsAndWritesWhileIdle
  refine ⟨fun s t o hb hw hspace => ?_, fun s t o r hb hw hspace hr hcmd => ?_⟩
  · have hreg (r : RegName) := hostRead_rdata_of_number (r := r) hb hspace
    have hcoef (n : CoefName) (c : BitVec 64) (hn : t.addr.toNat = regNumber (.coef n)) :
        (coefGet s.coef n = .pat c → (hostRead t s).rdata = c) ∧
          (coefGet s.coef n = .nan → isNaN (.pat (hostRead t s).rdata) = true) := by
      rw [hreg (.coef n) hn]
      exact bitsOf_spec s.draws c (coefGet s.coef n)
    refine ⟨_, hostAccess_read o hw, readData_reg s hspace, hreg .cmd, fun hn => ?_, fun hn => ?_, fun hn => ?_, fun hn => ?_,
      hreg .depth, hreg .freq, hreg .amp, hreg .dur, hreg .cutoff, hreg .resq, fun k => hreg (.gain k),
      fun c w hmem => ?_⟩
    · rw [hreg .status hn, regReadIdle, statusWord_toNat, hb]
      simp
    · rw [hreg .ctrl hn, regReadIdle, BitVec.toNat_setWidth_of_le (by decide)]
    · rw [hreg .rate hn, regReadIdle, BitVec.toNat_setWidth_of_le (by decide)]
    · rw [hreg .len hn, regReadIdle, BitVec.toNat_setWidth_of_le (by decide)]
    · simp only [List.mem_cons, Prod.mk.injEq, List.not_mem_nil, or_false] at hmem
      rcases hmem with ⟨hn, rfl⟩ | ⟨hn, rfl⟩ | ⟨hn, rfl⟩ | ⟨hn, rfl⟩ | ⟨hn, rfl⟩ | ⟨hn, rfl⟩
      · exact hcoef .b0 c hn
      · exact hcoef .b1 c hn
      · exact hcoef .b2 c hn
      · exact hcoef .a0 c hn
      · exact hcoef .a1 c hn
      · exact hcoef .a2 c hn
  · have hn := regAt_eq_some_iff.mp hr
    have hstore : hostAccess t o s = .next (regStore t.wdata s r) := by
      rw [hostAccess_store o hw hb (isCommand_eq_false (hn ▸ regNumber_ne_zero hcmd)), hostStore_reg s hspace hr]
    have hidle : (regStore t.wdata s r).status.busy = false := by rw [regStore_status, hb]
    refine ⟨_, hstore, ?_, fun q hq => ?_, regStore_status _ _ _, regStore_buf _ _ _, regStore_delay _ _ _,
      regStore_seq _ _ _, regStore_cfg _ _ _⟩
    · rw [regRead_idle hidle, regReadIdle_regStore, if_pos rfl]
    · rw [regRead_idle hidle, regReadIdle_regStore, if_neg hq, regRead_idle hb]

end Sys2Proof.Machine
end

section
/-! PROOFS. The invariant of the machine (10_state.md rules R23, R27, R32, R34, R36, 47_synthesis_pipeline.md rule R200). A
run is described by `InRun`, which every operation of a running command keeps; whole runs and micro-steps both go through
it. The working copy is the one of 70_reset_and_hazards.md rule R236. -/

namespace Sys2Proof.Machine

/-! ## The parts of the invariant -/

theorem memoryOk_iff {cfg : Config} {m : Memory} :
    memoryOk cfg m = true ↔ Memory.wf m = true ∧ Memory.below cfg.bufDepth m = true := by
  rw [memoryOk, Bool.and_eq_true]

theorem memoryOk_nil (cfg : Config) : memoryOk cfg [] = true := by rfl

theorem memoryOk_write {cfg : Config} {m : Memory} {i : Nat} (v : W) (hi : i < cfg.bufDepth)
    (h : memoryOk cfg m = true) : memoryOk cfg (Memory.write m i v) = true := by
  obtain ⟨hwf, hbelow⟩ := memoryOk_iff.mp h
  exact memoryOk_iff.mpr ⟨write_wf m i v hwf, write_below m v hi hbelow⟩

theorem memoryOk_writeList {cfg : Config} {m : Memory} {i : Nat} {vs : List W} (hi : i + vs.length ≤ cfg.bufDepth)
    (h : memoryOk cfg m = true) : memoryOk cfg (Memory.writeList m i vs) = true := by
  obtain ⟨hwf, hbelow⟩ := memoryOk_iff.mp h
  exact memoryOk_iff.mpr ⟨writeList_wf vs m i hwf, writeList_below vs m hi hbelow⟩

/-- Of the legal values of `STATUS` only `BUSY` alone is busy (rule R23). -/
theorem eq_statusBusy_of_statusOk {st : Status} (hok : statusOk st = true) (hb : st.busy = true) : st = statusBusy := by
  obtain ⟨busy, done, err, errCode⟩ := st
  cases hb
  revert done err errCode
  decide

theorem statusOk_statusError (e : ErrCode) : statusOk (statusError e) = true := by
  cases e <;> rfl

theorem delayOk_zero (form : BiquadForm) : delayOk form (Delay.zero form) = true := by
  cases form <;> rfl

theorem delayOk_filterStep {form : BiquadForm} {d : Delay} (c : Coef) (x : W) (h : delayOk form d = true) :
    delayOk form (filterStep c d x).2 = true := by
  cases form <;> cases d <;> exact h

theorem delayOk_filterList {form : BiquadForm} {d : Delay} (c : Coef) (xs : List W) (h : delayOk form d = true) :
    delayOk form (filterList c d xs).2 = true := by
  induction xs generalizing d with
  | nil => exact h
  | cons x xs ih => exact ih (delayOk_filterStep c x h)

/-! ## The phases of a run -/

/-- The phases of each command, phase by phase (rule R200); `K` and `I` do not enter. -/
theorem phaseLegal_iff (q : Sequencer) :
    phaseLegal q = true ↔
      (q.phase = .gen ∧ (q.opc = 1#4 ∨ (q.opc = 8#4 ∧ q.stage = .none))) ∨
        (q.phase = .design ∧
          (q.opc = 2#4 ∨ q.opc = 3#4 ∨ q.opc = 6#4 ∨ q.opc = 7#4 ∨ (q.opc = 8#4 ∧ q.stage ≠ .none))) ∨
        (q.phase = .filt ∧ (q.opc = 4#4 ∨ q.opc = 6#4 ∨ q.opc = 7#4 ∨ (q.opc = 8#4 ∧ q.stage ≠ .none))) ∨
        (q.phase = .narrow ∧ (q.opc = 5#4 ∨ q.opc = 7#4 ∨ (q.opc = 8#4 ∧ q.stage = .eq))) := by
  obtain ⟨phase, k, i, opc, stage⟩ := q
  dsimp only
  change phaseLegal ⟨phase, 0#4, 0#32, opc, stage⟩ = true ↔ _
  revert opc
  cases phase <;> cases stage <;> decide

theorem phaseLegal_design_iff {q : Sequencer} (hp : q.phase = .design) :
    phaseLegal q = true ↔
      q.opc = 2#4 ∨ q.opc = 3#4 ∨ q.opc = 6#4 ∨ q.opc = 7#4 ∨ (q.opc = 8#4 ∧ q.stage ≠ .none) := by
  simp [phaseLegal_iff, hp]

theorem phaseLegal_filt_iff {q : Sequencer} (hp : q.phase = .filt) :
    phaseLegal q = true ↔ q.opc = 4#4 ∨ q.opc = 6#4 ∨ q.opc = 7#4 ∨ (q.opc = 8#4 ∧ q.stage ≠ .none) := by
  simp [phaseLegal_iff, hp]

theorem phaseLegal_narrow_iff {q : Sequencer} (hp : q.phase = .narrow) :
    phaseLegal q = true ↔ q.opc = 5#4 ∨ q.opc = 7#4 ∨ (q.opc = 8#4 ∧ q.stage = .eq) := by
  simp [phaseLegal_iff, hp]

theorem phaseLegal_ne_idle {q : Sequencer} (h : phaseLegal q = true) : q.phase ≠ .idle := by
  intro hp
  simp [phaseLegal_iff, hp] at h

theorem inEqualizer_iff (q : Sequencer) : inEqualizer q = true ↔ q.opc = 7#4 ∨ (q.opc = 8#4 ∧ q.stage = .eq) := by
  simp [inEqualizer]

/-- Acceptance enters the first phase of the command (rules R200, R213). -/
theorem phaseLegal_accept (i : Instr) (s : State) : phaseLegal (accept i s).seq = true := by
  cases i <;> rfl

/-! ## The argument checks -/

/-- The last check of rule R209: the length is a number and fits the buffer. -/
theorem genLength_of_genCheck {cfg : Config} {p : Params} (h : genCheck cfg p = none) :
    ∃ n, genLength p = some n ∧ n ≤ cfg.bufDepth := by
  unfold genCheck at h
  split_ifs at h
  cases hn : genLength p with
  | none => simp [hn] at h
  | some n => exact ⟨n, rfl, by simpa [hn] using h⟩

theorem genLengthD_le_of_genCheck {cfg : Config} {p : Params} (h : genCheck cfg p = none) :
    genLengthD p ≤ cfg.bufDepth := by
  obtain ⟨n, hn, hle⟩ := genLength_of_genCheck h
  simpa [genLengthD, hn] using hle

theorem genCheck_of_argCheck {cfg : Config} {p : Params} {i : Instr} (h : argCheck cfg p i = none)
    (hp : firstPhase i = .gen) : genCheck cfg p = none := by
  cases i with
  | gen => exact h
  | synth =>
    cases hg : genCheck cfg p with
    | none => rfl
    | some e => simp [argCheck, hg] at h
  | _ => cases hp

theorem operand_le_of_argCheck {cfg : Config} {p : Params} {i : Instr} (h : argCheck cfg p i = none) :
    i.operand.toNat ≤ 9 := by
  cases i with
  | dsgnEq k =>
    by_contra hk
    simp [argCheck, show ¬ k.toNat ≤ 9 from hk] at h
  | _ => exact Nat.zero_le 9

/-! ## A run in progress -/

/-- What holds throughout the run of a command, whatever its phase: the legal configuration, the host's view as the
invariant has it, `STATUS` busy, and the working copy inside the buffer. -/
structure InRun (s : State) : Prop where
  cfg : s.cfg.wf = true
  buf : memoryOk s.cfg s.buf = true
  len : s.len.toNat ≤ s.cfg.bufDepth
  status : s.status = statusBusy
  delay : delayOk s.cfg.biquadForm s.delay = true
  band : s.seq.k.toNat ≤ 9
  workBuf : memoryOk s.cfg s.work.buf = true
  workLen : s.work.len.toNat ≤ s.cfg.bufDepth

theorem runningOk_iff (s : State) :
    runningOk s = true ↔
      phaseLegal s.seq = true ∧ s.seq.k.toNat ≤ 9 ∧ s.seq.i.toNat ≤ loopBound s ∧
        memoryOk s.cfg s.work.buf = true ∧ s.work.len.toNat ≤ s.cfg.bufDepth ∧
        (s.seq.phase = .gen → genCheck s.cfg s.par = none) := by
  unfold runningOk
  by_cases hp : s.seq.phase = .gen <;> simp [hp, and_assoc]

theorem State.Inv.inRun {s : State} (h : s.Inv) (hb : s.status.busy = true) : InRun s := by
  obtain ⟨-, hk, -, hbuf, hlen, -⟩ := (runningOk_iff s).mp (h.running hb)
  exact ⟨h.cfg, h.buf, h.len, eq_statusBusy_of_statusOk h.status hb, h.delay, hk, hbuf, hlen⟩

/-- A run with the sequencer in a legal phase, inside its loop, has the invariant. -/
theorem InRun.inv {s : State} (h : InRun s) (hp : phaseLegal s.seq = true) (hi : s.seq.i.toNat ≤ loopBound s)
    (hg : s.seq.phase = .gen → genCheck s.cfg s.par = none) : s.Inv where
  cfg := h.cfg
  buf := h.buf
  len := h.len
  status := by rw [h.status]; rfl
  phase := by simp [phaseLegal_ne_idle hp, h.status, statusBusy]
  delay := h.delay
  running _ := (runningOk_iff s).mpr ⟨hp, h.band, hi, h.workBuf, h.workLen, hg⟩

/-- Completion publishes the working copy (rule R236). -/
theorem InRun.complete {s : State} (h : InRun s) : (complete s).Inv where
  cfg := h.cfg
  buf := h.workBuf
  len := h.workLen
  status := by rw [complete_status, h.status]; rfl
  phase := by simp [statusComplete]
  delay := h.delay
  running hb := by cases hb

/-- An accepted command is a run (rule R213). -/
theorem State.Inv.inRun_accept {s : State} {i : Instr} (h : s.Inv) (hc : argCheck s.cfg s.par i = none) :
    InRun (accept i s) where
  cfg := h.cfg
  buf := h.buf
  len := h.len
  status := accept_status i s
  delay := by
    unfold accept
    split
    · exact delayOk_zero _
    · exact h.delay
  band := operand_le_of_argCheck hc
  workBuf := h.buf
  workLen := h.len

/-! ## What a running command does keeps the run -/

theorem InRun.storeEntries {s : State} {vs : List W} (h : InRun s) (hvs : vs.length ≤ s.cfg.bufDepth) :
    InRun (storeEntries vs s) :=
  { h with workBuf := memoryOk_writeList (cfg := s.cfg) (by omega) h.workBuf }

theorem InRun.storeEntry {s : State} {i : Nat} (v : W) (h : InRun s) (hi : i < s.cfg.bufDepth) :
    InRun (storeEntry i v s) :=
  { h with workBuf := memoryOk_write v hi h.workBuf }

theorem InRun.storeLen {s : State} {n : Nat} (h : InRun s) (hn : n ≤ s.cfg.bufDepth) : InRun (storeLen n s) :=
  { h with workLen := (BitVec.toNat_ofNat n 32).trans_le ((Nat.mod_le _ _).trans hn) }

theorem InRun.storeCoef {s : State} (c : Coef) (h : InRun s) : InRun (storeCoef c s) := { h with }

theorem InRun.setDelay {s : State} {d : Delay} (h : InRun s) (hd : delayOk s.cfg.biquadForm d = true) :
    InRun (setDelay d s) :=
  { h with delay := hd }

theorem InRun.setPhase {s : State} (p : Phase) (h : InRun s) : InRun (setPhase p s) := { h with }

theorem InRun.setIndex {s : State} (i : BitVec 32) (h : InRun s) : InRun (setIndex i s) := { h with }

theorem InRun.setBand {s : State} {k : BitVec 4} (h : InRun s) (hk : k.toNat ≤ 9) : InRun (setBand k s) :=
  { h with band := hk }

theorem InRun.setStage {s : State} (g : Stage) (h : InRun s) : InRun (setStage g s) := { h with }

/-! ## Whole runs -/

theorem InRun.genStage {s : State} (h : InRun s) (hn : genLengthD s.par ≤ s.cfg.bufDepth) : InRun (genStage s) := by
  unfold Machine.genStage
  exact ((h.storeEntries (by simpa using hn)).storeLen (by simpa using hn)).setIndex _

theorem InRun.designResStage {s : State} (h : InRun s) : InRun (designResStage s) := h.storeCoef _

theorem InRun.designBandStage {s : State} (k : BitVec 4) (h : InRun s) : InRun (designBandStage k s) := h.storeCoef _

theorem InRun.filtStage {s : State} (h : InRun s) : InRun (filtStage s) := by
  unfold Machine.filtStage
  exact ((h.storeEntries (by simpa using h.workLen)).setDelay (delayOk_filterList _ _ (delayOk_zero _))).setIndex _

theorem InRun.narrowStage {s : State} (h : InRun s) : InRun (narrowStage s) := by
  unfold Machine.narrowStage
  exact (h.storeEntries (by simpa using h.workLen)).setIndex _

theorem InRun.resStage {s : State} (h : InRun s) : InRun (resStage s) := h.designResStage.filtStage

theorem InRun.bandStage {s : State} {k : BitVec 4} (h : InRun s) (hk : k.toNat ≤ 9) : InRun (bandStage k s) :=
  ((h.setBand hk).designBandStage k).filtStage.narrowStage

theorem InRun.foldl_bandStage {s : State} {ks : List (BitVec 4)} (h : InRun s) (hks : ∀ k ∈ ks, k.toNat ≤ 9) :
    InRun (ks.foldl (fun t k => Machine.bandStage k t) s) := by
  induction ks generalizing s with
  | nil => exact h
  | cons k ks ih =>
    rw [List.foldl_cons]
    exact ih (h.bandStage (hks k List.mem_cons_self)) fun j hj => hks j (List.mem_cons_of_mem k hj)

theorem InRun.eqStage {s : State} (h : InRun s) : InRun (eqStage s) := by
  have hbands : ∀ k ∈ bandOrder, k.toNat ≤ 9 := by decide
  unfold Machine.eqStage
  exact h.foldl_bandStage hbands

theorem InRun.synthStage {s : State} (h : InRun s) (hn : genLengthD s.par ≤ s.cfg.bufDepth) : InRun (synthStage s) := by
  have hgen := h.genStage hn
  unfold Machine.synthStage
  cases eqEn s.par <;> cases resEn s.par
  · exact hgen
  · exact (hgen.setStage .res).resStage
  · exact (hgen.setStage .eq).eqStage
  · exact ((hgen.setStage .eq).eqStage.setStage .res).resStage

theorem State.Inv.inRun_effectOf {s : State} {i : Instr} (h : s.Inv) (hc : argCheck s.cfg s.par i = none) :
    InRun (effectOf i (accept i s)) := by
  have hrun := h.inRun_accept hc
  cases i with
  | gen => exact hrun.genStage (genLengthD_le_of_genCheck (genCheck_of_argCheck hc rfl))
  | dsgnRes => exact hrun.designResStage
  | dsgnEq k => exact hrun.designBandStage k
  | filt => exact hrun.filtStage
  | narrow => exact hrun.narrowStage
  | res => exact hrun.resStage
  | equalize => exact hrun.eqStage
  | synth => exact hrun.synthStage (genLengthD_le_of_genCheck (genCheck_of_argCheck hc rfl))

/-! ## Rejection, acceptance, reset -/

theorem State.Inv.reject {s : State} (e : ErrCode) (h : s.Inv) (hb : s.status.busy = false) : (reject e s).Inv :=
  { h with
    status := statusOk_statusError e
    phase := iff_of_true (h.phase.mpr hb) rfl
    running := fun hbusy => by cases hbusy }

theorem State.Inv.accept {s : State} {i : Instr} (h : s.Inv) (hc : argCheck s.cfg s.par i = none) : (accept i s).Inv :=
  (h.inRun_accept hc).inv (phaseLegal_accept i s) (Nat.zero_le _) (genCheck_of_argCheck hc)

theorem inv_resetOf {cfg : Config} (h : cfg.wf = true) : (State.resetOf cfg).Inv where
  cfg := h
  buf := memoryOk_nil cfg
  len := Nat.zero_le _
  status := rfl
  phase := iff_of_true rfl rfl
  delay := delayOk_zero _
  running hb := by cases hb

/-- The invariant says nothing of the model's own fields `inputs`, `rdata` and `draws`. -/
theorem State.Inv.withHost {s : State} (h : s.Inv) (inputs : List HostEvent) (rdata : BitVec 64) (draws : Nat) :
    State.Inv { s with inputs := inputs, rdata := rdata, draws := draws } := { h with }

/-- Settles O9: every field of the reset state is as the invariant wants it. -/
theorem resetHasTheInvariant : Obligations.ResetHasTheInvariant := by
  unfold Obligations.ResetHasTheInvariant
  exact fun _ h => inv_resetOf h

/-! ## Micro-steps -/

theorem InRun.enterDesign_inv {s : State} (h : InRun s) (hp : phaseLegal { s.seq with phase := .design } = true) :
    (enterDesign s).Inv :=
  (h.setPhase .design).inv hp s.seq.i.isLt.le fun hgen => by cases hgen

theorem InRun.enterFilt_inv {s : State} (h : InRun s) (hp : phaseLegal { s.seq with phase := .filt } = true) :
    (enterFilt s).Inv :=
  (((h.setPhase .filt).setIndex 0#32).setDelay (delayOk_zero _)).inv hp (Nat.zero_le _) fun hgen => by cases hgen

theorem InRun.enterNarrow_inv {s : State} (h : InRun s) (hp : phaseLegal { s.seq with phase := .narrow } = true) :
    (enterNarrow s).Inv :=
  ((h.setPhase .narrow).setIndex 0#32).inv hp (Nat.zero_le _) fun hgen => by cases hgen

theorem InRun.leaveEqualizer_inv {s : State} (h : InRun s) : (leaveEqualizer s).Inv := by
  rcases leaveEqualizer_cases s with heq | ⟨hopc, -, heq⟩
  · rw [heq]
    exact h.complete
  · rw [heq]
    exact (h.setStage .res).enterDesign_inv ((phaseLegal_design_iff rfl).mpr (by simp [hopc]))

theorem InRun.leaveGen_inv {s : State} (h : InRun s) : (leaveGen s).Inv := by
  rcases leaveGen_cases s with heq | ⟨hopc, -, heq⟩
  · rw [heq]
    exact h.leaveEqualizer_inv
  · rw [heq]
    exact ((h.setStage .eq).setBand (by decide)).enterDesign_inv ((phaseLegal_design_iff rfl).mpr (by simp [hopc]))

theorem InRun.leaveDesign_inv {s : State} (h : InRun s) (hp : s.seq.phase = .design)
    (hl : phaseLegal s.seq = true) : (leaveDesign s).Inv := by
  rcases leaveDesign_cases s with ⟨-, heq⟩ | ⟨h2, h3, heq⟩
  · rw [heq]
    exact h.complete
  · have hopc := (phaseLegal_design_iff hp).mp hl
    rw [heq]
    exact h.enterFilt_inv ((phaseLegal_filt_iff rfl).mpr (by tauto))

theorem InRun.leaveFilt_inv {s : State} (h : InRun s) : (leaveFilt s).Inv := by
  rcases leaveFilt_cases s with ⟨heq, hleave⟩ | ⟨-, hleave⟩
  · have hopc := (inEqualizer_iff s.seq).mp heq
    rw [hleave]
    exact h.enterNarrow_inv ((phaseLegal_narrow_iff rfl).mpr (.inr hopc))
  · rw [hleave]
    exact h.complete

theorem InRun.leaveNarrow_inv {s : State} (h : InRun s) : (leaveNarrow s).Inv := by
  rcases leaveNarrow_cases s with ⟨-, hleave⟩ | ⟨heq, hk, hleave⟩ | ⟨-, -, hleave⟩
  · rw [hleave]
    exact h.complete
  · have hnext : (s.seq.k + 1#4).toNat ≤ 9 := by bv_omega
    have hopc : s.seq.opc = 7#4 ∨ (s.seq.opc = 8#4 ∧ s.seq.stage ≠ .none) :=
      ((inEqualizer_iff s.seq).mp heq).imp_right fun ⟨h8, hstage⟩ => ⟨h8, by simp [hstage]⟩
    rw [hleave]
    exact (h.setBand hnext).enterDesign_inv ((phaseLegal_design_iff rfl).mpr (.inr (.inr (.inr hopc))))
  · rw [hleave]
    exact h.leaveEqualizer_inv

/-- Inside a loop the index may go up by one. -/
theorem InRun.bumpIndex_inv {s : State} (h : InRun s) (hp : phaseLegal s.seq = true)
    (hi : s.seq.i.toNat < loopBound s) (hg : s.seq.phase = .gen → genCheck s.cfg s.par = none) : (bumpIndex s).Inv := by
  have hnext : (s.seq.i + 1#32).toNat ≤ s.seq.i.toNat + 1 := by bv_omega
  exact (h.setIndex _).inv hp (hnext.trans hi) hg

theorem loopBound_gen {s : State} (hp : s.seq.phase = .gen) : loopBound s = genLengthD s.par := by
  simp [loopBound, hp]

theorem loopBound_filt {s : State} (hp : s.seq.phase = .filt) : loopBound s = s.work.len.toNat := by
  simp [loopBound, hp]

theorem loopBound_narrow {s : State} (hp : s.seq.phase = .narrow) : loopBound s = s.work.len.toNat := by
  simp [loopBound, hp]

section
variable {s : State} (h : s.Inv) (hb : s.status.busy = true)
include h hb

theorem stepGen_inv (hp : s.seq.phase = .gen) : (stepGen s).Inv := by
  obtain ⟨hlegal, -, -, -, -, hcheck⟩ := (runningOk_iff s).mp (h.running hb)
  have hrun := h.inRun hb
  have hN := genLengthD_le_of_genCheck (hcheck hp)
  unfold stepGen
  split
  · next hi =>
    exact (hrun.storeEntry _ (hi.trans_le hN)).bumpIndex_inv hlegal (by simpa [loopBound_gen, hp] using hi) hcheck
  · exact (hrun.storeLen hN).leaveGen_inv

theorem stepDesign_inv (hp : s.seq.phase = .design) : (stepDesign s).Inv := by
  obtain ⟨hlegal, -⟩ := (runningOk_iff s).mp (h.running hb)
  have hrun := h.inRun hb
  unfold stepDesign
  split
  · exact (hrun.designBandStage _).leaveDesign_inv hp hlegal
  · exact hrun.designResStage.leaveDesign_inv hp hlegal

theorem stepFilt_inv (hp : s.seq.phase = .filt) : (stepFilt s).Inv := by
  obtain ⟨hlegal, -⟩ := (runningOk_iff s).mp (h.running hb)
  have hrun := h.inRun hb
  unfold stepFilt
  split
  · next hi =>
    have hdelay := delayOk_filterStep s.work.coef (readEntry s.work s.seq.i.toNat) h.delay
    exact ((hrun.storeEntry _ (hi.trans_le hrun.workLen)).setDelay hdelay).bumpIndex_inv hlegal
      (by simpa [loopBound_filt, hp] using hi) fun hgen => by cases hp.symm.trans hgen
  · exact hrun.leaveFilt_inv

theorem stepNarrow_inv (hp : s.seq.phase = .narrow) : (stepNarrow s).Inv := by
  obtain ⟨hlegal, -⟩ := (runningOk_iff s).mp (h.running hb)
  have hrun := h.inRun hb
  unfold stepNarrow
  split
  · next hi =>
    exact (hrun.storeEntry _ (hi.trans_le hrun.workLen)).bumpIndex_inv hlegal
      (by simpa [loopBound_narrow, hp] using hi) fun hgen => by cases hp.symm.trans hgen
  · exact hrun.leaveNarrow_inv

end

theorem State.Inv.busy_of_phase {s : State} (h : s.Inv) (hp : s.seq.phase ≠ .idle) : s.status.busy = true := by
  by_contra hb
  exact hp (h.phase.mpr (by simpa using hb))

/-- A turn of the sequencer keeps the invariant. -/
theorem State.Inv.sequencerStep {s : State} (h : s.Inv) : (sequencerStep s).Inv := by
  unfold Machine.sequencerStep
  split
  · exact h
  · next hp => exact stepGen_inv h (h.busy_of_phase (by simp [hp])) hp
  · next hp => exact stepDesign_inv h (h.busy_of_phase (by simp [hp])) hp
  · next hp => exact stepFilt_inv h (h.busy_of_phase (by simp [hp])) hp
  · next hp => exact stepNarrow_inv h (h.busy_of_phase (by simp [hp])) hp

/-! ## Host events -/

/-- A stored write keeps `LEN` and the buffer within the depth and touches nothing else the invariant names. -/
theorem State.Inv.hostStore {s : State} (t : Transaction) (h : s.Inv) (hb : s.status.busy = false) :
    (hostStore t s).Inv := by
  rcases hostStore_cases t s with ⟨r, -, -, heq⟩ | ⟨hi, heq⟩ | heq <;> rw [heq]
  · exact
      { cfg := by rw [regStore_cfg]; exact h.cfg
        buf := by rw [regStore_cfg, regStore_buf]; exact h.buf
        len := by rw [regStore_cfg]; exact regStore_len_le _ s r h.len
        status := by rw [regStore_status]; exact h.status
        phase := by rw [regStore_seq, regStore_status]; exact h.phase
        delay := by rw [regStore_cfg, regStore_delay]; exact h.delay
        running := fun hbusy => by rw [regStore_status, hb] at hbusy; cases hbusy }
  · exact { h with buf := memoryOk_write _ hi h.buf }
  · exact h

theorem State.Inv.hostRead {s : State} (t : Transaction) (h : s.Inv) : (hostRead t s).Inv :=
  h.withHost s.inputs (readData s t) (s.draws + 1)

theorem State.Inv.startCommand {s : State} (i : Instr) (h : s.Inv) : (startCommand i s).Inv := by
  rcases startCommand_cases i s with ⟨-, heq⟩ | ⟨hb, e, -, heq⟩ | ⟨-, hc, heq⟩ <;> rw [heq]
  · exact h
  · exact h.reject e hb
  · exact h.accept hc

theorem State.Inv.exec {s t : State} {i : Instr} (h : s.Inv) (he : exec i s = .next t) : t.Inv := by
  rw [exec_eq_runCommand] at he
  rcases runCommand_cases he with ⟨-, rfl⟩ | ⟨hb, e, -, rfl⟩ | ⟨-, hc, rfl⟩
  · exact h
  · exact h.reject e hb
  · exact (h.inRun_effectOf hc).complete

theorem State.Inv.hostAccess {s s' : State} {t : Transaction} {overlap : Bool} (h : s.Inv)
    (ha : hostAccess t overlap s = .next s') : s'.Inv := by
  rcases hostAccess_cases ha with ⟨-, rfl⟩ | ⟨-, -, rfl⟩ | ⟨-, hb, -, rfl⟩ | ⟨-, hb, -, hcmd⟩
  · exact h.hostRead t
  · exact h
  · exact h.hostStore t hb
  · rcases hcmd with ⟨e, -, rfl⟩ | ⟨i, -, -, rfl⟩ | ⟨i, -, -, he⟩
    · exact h.reject _ hb
    · exact h.startCommand i
    · exact h.exec he

theorem State.Inv.hostPoll {s : State} (h : s.Inv) : (hostPoll s).Inv := by
  rcases hostPoll_cases s with ⟨-, heq⟩ | ⟨-, heq⟩ <;> rw [heq]
  · exact (h.hostRead statusRead).sequencerStep.withHost _ _ _
  · exact h.hostRead statusRead

theorem State.Inv.resetState {s : State} (h : s.Inv) : (resetState s).Inv :=
  (inv_resetOf h.cfg).withHost s.inputs s.rdata s.draws

/-- Settles O10: each thing a step can do keeps the invariant. -/
theorem everyStepKeepsTheInvariant : Obligations.EveryStepKeepsTheInvariant := by
  unfold Obligations.EveryStepKeepsTheInvariant
  intro s t h hstep
  have hrest (rest : List HostEvent) : State.Inv { s with inputs := rest } := h.withHost rest s.rdata s.draws
  rcases step_cases hstep with
    ⟨-, rfl⟩ | ⟨rest, -, rfl⟩ | ⟨rest, -, rfl⟩ | ⟨rest, -, rfl⟩ | ⟨tr, overlap, rest, -, ha⟩
  · exact h.sequencerStep
  · exact (hrest rest).sequencerStep
  · exact (hrest rest).resetState
  · exact (hrest rest).hostPoll
  · exact (hrest rest).hostAccess ha

/-- Settles O11, by induction on the run: it holds at reset, placed events do not enter it, every step keeps it. -/
theorem reachableStatesHaveTheInvariant : Obligations.ReachableStatesHaveTheInvariant := by
  unfold Obligations.ReachableStatesHaveTheInvariant
  intro cfg s hcfg hreach
  induction hreach with
  | start => exact inv_resetOf hcfg
  | placed s es _ ih => exact ih.withHost es s.rdata s.draws
  | stepped s t _ hstep ih => exact everyStepKeepsTheInvariant s t ih hstep

end Sys2Proof.Machine
end

section
/-! PROOFS. Who writes the parameter registers (10_state.md rule R37): the host, and reset. -/

namespace Sys2Proof.Machine

/-! ## The sequencer and the commands write none -/

@[simp] theorem enterDesign_par (s : State) : (enterDesign s).par = s.par := by rfl

@[simp] theorem enterFilt_par (s : State) : (enterFilt s).par = s.par := by rfl

@[simp] theorem enterNarrow_par (s : State) : (enterNarrow s).par = s.par := by rfl

@[simp] theorem bumpIndex_par (s : State) : (bumpIndex s).par = s.par := by rfl

@[simp] theorem leaveEqualizer_par (s : State) : (leaveEqualizer s).par = s.par := by
  rcases leaveEqualizer_cases s with heq | ⟨-, -, heq⟩ <;> simp [heq]

@[simp] theorem leaveGen_par (s : State) : (leaveGen s).par = s.par := by
  rcases leaveGen_cases s with heq | ⟨-, -, heq⟩ <;> simp [heq]

@[simp] theorem leaveDesign_par (s : State) : (leaveDesign s).par = s.par := by
  rcases leaveDesign_cases s with ⟨-, heq⟩ | ⟨-, -, heq⟩ <;> simp [heq]

@[simp] theorem leaveFilt_par (s : State) : (leaveFilt s).par = s.par := by
  rcases leaveFilt_cases s with ⟨-, heq⟩ | ⟨-, heq⟩ <;> simp [heq]

@[simp] theorem leaveNarrow_par (s : State) : (leaveNarrow s).par = s.par := by
  rcases leaveNarrow_cases s with ⟨-, heq⟩ | ⟨-, -, heq⟩ | ⟨-, -, heq⟩ <;> simp [heq]

@[simp] theorem stepGen_par (s : State) : (stepGen s).par = s.par := by
  unfold stepGen
  split <;> simp

@[simp] theorem stepDesign_par (s : State) : (stepDesign s).par = s.par := by
  unfold stepDesign
  split <;> simp

@[simp] theorem stepFilt_par (s : State) : (stepFilt s).par = s.par := by
  unfold stepFilt
  split <;> simp

@[simp] theorem stepNarrow_par (s : State) : (stepNarrow s).par = s.par := by
  unfold stepNarrow
  split <;> simp

@[simp] theorem sequencerStep_par (s : State) : (sequencerStep s).par = s.par := by
  unfold sequencerStep
  split <;> simp

@[simp] theorem effectOf_par (i : Instr) (s : State) : (effectOf i s).par = s.par := by
  cases i <;> simp [effectOf]

@[simp] theorem startCommand_par (i : Instr) (s : State) : (startCommand i s).par = s.par := by
  rcases startCommand_cases i s with ⟨-, heq⟩ | ⟨-, e, -, heq⟩ | ⟨-, -, heq⟩ <;> simp [heq]

theorem exec_par {i : Instr} {s t : State} (h : exec i s = .next t) : t.par = s.par := by
  rw [exec_eq_runCommand] at h
  rcases runCommand_cases h with ⟨-, rfl⟩ | ⟨-, e, -, rfl⟩ | ⟨-, -, rfl⟩ <;> simp

@[simp] theorem hostPoll_par (s : State) : (hostPoll s).par = s.par := by
  rcases hostPoll_cases s with ⟨-, heq⟩ | ⟨-, heq⟩ <;> simp [heq]

/-! ## The host does, at the numbers of the parameter registers -/

/-- The transaction that changes a parameter register is a write of its number while idle. -/
theorem hostAccess_par_ne {tr : Transaction} {overlap : Bool} {s t : State}
    (h : hostAccess tr overlap s = .next t) (hne : t.par ≠ s.par) :
    tr.we = true ∧ tr.space = 0#2 ∧ s.status.busy = false ∧
      (tr.addr.toNat = 0x02 ∨ tr.addr.toNat = 0x03 ∨ (0x08 ≤ tr.addr.toNat ∧ tr.addr.toNat ≤ 0x0C) ∨
        (0x10 ≤ tr.addr.toNat ∧ tr.addr.toNat ≤ 0x19)) := by
  rcases hostAccess_cases h with ⟨-, rfl⟩ | ⟨-, -, rfl⟩ | ⟨hw, hb, -, rfl⟩ | ⟨-, -, -, hcmd⟩
  · exact absurd (hostRead_par tr s) hne
  · exact absurd rfl hne
  · rcases hostStore_cases tr s with ⟨r, hspace, hr, heq⟩ | ⟨-, heq⟩ | heq <;> rw [heq] at hne
    · have hnumber := regNumber_of_regStore_par_ne hne
      rw [← regAt_eq_some_iff.mp hr] at hnumber
      exact ⟨hw, hspace, hb, hnumber⟩
    · exact absurd rfl hne
    · exact absurd rfl hne
  · rcases hcmd with ⟨e, -, rfl⟩ | ⟨i, -, -, rfl⟩ | ⟨i, -, -, he⟩
    · exact absurd (reject_par _ s) hne
    · exact absurd (startCommand_par i s) hne
    · exact absurd (exec_par he) hne

/-- Settles O21: of the things a step can do, only reset and a stored write reach a parameter register. -/
theorem onlyTheHostChangesParameters : Obligations.OnlyTheHostChangesParameters := by
  unfold Obligations.OnlyTheHostChangesParameters
  intro s t hstep hne
  rcases step_cases hstep with
    ⟨-, rfl⟩ | ⟨rest, -, rfl⟩ | ⟨rest, hin, -⟩ | ⟨rest, -, rfl⟩ | ⟨tr, overlap, rest, hin, ha⟩
  · exact absurd (sequencerStep_par s) hne
  · exact absurd (sequencerStep_par _) hne
  · exact .inl ⟨rest, hin⟩
  · exact absurd (hostPoll_par _) hne
  · obtain ⟨hw, hspace, hb, hnumber⟩ := hostAccess_par_ne ha hne
    exact .inr ⟨tr, overlap, rest, hin, hw, hspace, hb, hnumber⟩

end Sys2Proof.Machine
end

section
/-! PROOFS. The spaces `BUF`, `OUT` and the reserved code of the host port (20_memory.md rules R60, R62, R63, R68, R69), and
the block that waits for the host (rule R72). -/

namespace Sys2Proof.Machine

/-! ## The space of a transaction -/

/-- A write to `CMD` is in the `REG` space (rule R22). -/
theorem isCommand_eq_false_of_space {t : Transaction} (h : t.space ≠ 0#2) : isCommand t = false := by
  simp [isCommand, spaceOf_eq_reg_iff, h]

section
variable {t : Transaction} (s : State)

theorem readData_buf (h : t.space = 1#2) : readData s t = bufRead s t.addr.toNat := by
  rw [readData, h]
  rfl

theorem readData_out (h : t.space = 2#2) : readData s t = outRead s t.addr.toNat := by
  rw [readData, h]
  rfl

theorem readData_reserved (h : t.space = 3#2) : readData s t = 0#64 := by
  rw [readData, h]
  rfl

theorem hostStore_buf_of_lt (h : t.space = 1#2) (hi : t.addr.toNat < s.cfg.bufDepth) :
    hostStore t s = { s with buf := Memory.write s.buf t.addr.toNat (.pat t.wdata) } := by
  rw [hostStore, h]
  exact if_pos hi

theorem hostStore_buf_of_not_lt (h : t.space = 1#2) (hi : ¬ t.addr.toNat < s.cfg.bufDepth) : hostStore t s = s := by
  rw [hostStore, h]
  exact if_neg hi

theorem hostStore_out (h : t.space = 2#2) : hostStore t s = s := by
  rw [hostStore, h]
  rfl

theorem hostStore_reserved (h : t.space = 3#2) : hostStore t s = s := by
  rw [hostStore, h]
  rfl

end

/-! ## Reads of the buffer -/

section
variable {s : State} {i : Nat}

theorem hostEntry_of_read {v : W} (h : Memory.read s.buf i = some v) : hostEntry s i = v := by
  rw [hostEntry, h, Option.getD_some]

theorem bufRead_of_not_lt (hi : ¬ i < s.cfg.bufDepth) : bufRead s i = 0#64 := if_neg hi

theorem outRead_of_not_lt (hi : ¬ i < s.cfg.bufDepth) : outRead s i = 0#64 := if_neg hi

variable (hb : s.status.busy = false) (hi : i < s.cfg.bufDepth)
include hb hi

/-- An idle `BUF` read of a written entry (rule R62). -/
theorem bufRead_of_read {v : W} (h : Memory.read s.buf i = some v) : bufRead s i = bitsOf s.draws v := by
  simp [bufRead, hi, hb, hostEntry_of_read h]

/-- An idle `BUF` read of the entry a host write has just set (rule R62). -/
theorem bufRead_write (v : BitVec 64) : bufRead { s with buf := Memory.write s.buf i (.pat v) } i = v :=
  bufRead_of_read (s := { s with buf := Memory.write s.buf i (.pat v) }) hb hi (read_write_same s.buf i (.pat v))

/-- An idle `OUT` read of a written entry (rule R63). -/
theorem outRead_of_read {v : W} (h : Memory.read s.buf i = some v) :
    outRead s i = (sampleBitsOf s.draws (narrow s.cfg.narrowMode v)).setWidth 64 := by
  simp [outRead, hi, hb, hostEntry_of_read h]

end

/-- Every draw for a NaN sample without a pattern is a NaN pattern (rule R17). -/
theorem unpackSample_nanSample (x : BitVec 64) : unpackSample (.pat (nanSample x)) = .nan := by
  have hfields : nanSample x =
      signedFields 32 (x.setWidth 32).msb
        (255 * 2 ^ 23 + (if (x.setWidth 32).toNat % 2 ^ 23 = 0 then 1 else (x.setWidth 32).toNat % 2 ^ 23)) := by
    rw [nanSample, signedFields, Nat.add_assoc]
  rw [hfields, unpackSample_signedFields _ (by split <;> omega), if_neg (by omega), if_neg (by split <;> omega)]

/-- The bits a read of a sample returns: the pattern, or some NaN pattern (rules R17, R63). -/
theorem sampleBitsOf_spec (n : Nat) (v : S) :
    v = .pat (sampleBitsOf n v) ∨ (v = .nan ∧ unpackSample (.pat (sampleBitsOf n v)) = .nan) := by
  cases v with
  | pat b => exact .inl rfl
  | nan => exact .inr ⟨rfl, unpackSample_nanSample _⟩

/-! ## The obligations on the spaces -/

/-- Settles O15: the read goes through the entry at the address, and so does the read after the write. -/
theorem bufWriteReadsBack : Obligations.BufWriteReadsBack := by
  unfold Obligations.BufWriteReadsBack
  intro s t r o p hb hw ht hr hspace haddr
  have hcmd : isCommand t = false := isCommand_eq_false_of_space (by rw [ht]; decide)
  have hread (s' : State) : (hostRead r s').rdata = bufRead s' t.addr.toNat := by
    rw [hostRead_rdata, readData_buf s' hspace, haddr]
  refine ⟨_, _, _, hostAccess_read p hr, hostAccess_store o hw hb hcmd, hostAccess_read p hr, ?_⟩
  rw [hread, hread]
  split
  · next hi =>
    rw [hostStore_buf_of_lt s ht hi]
    refine ⟨fun b hv => bufRead_of_read hb hi hv, fun hv => ?_, read_write_same s.buf _ _, bufRead_write hb hi t.wdata,
      fun i hne => read_write_other s.buf _ hne, rfl⟩
    rw [bufRead_of_read hb hi hv]
    exact isNaN_nanPattern _
  · next hi =>
    rw [hostStore_buf_of_not_lt s ht hi]
    exact ⟨bufRead_of_not_lt hi, bufRead_of_not_lt hi, rfl⟩

/-- Settles O16: the data is `sampleBitsOf` the narrowed entry; a write to `OUT` stores nothing. -/
theorem outReadsTheNarrowedEntry : Obligations.OutReadsTheNarrowedEntry := by
  unfold Obligations.OutReadsTheNarrowedEntry
  intro s t o hb hspace
  have hread : (hostRead t s).rdata = outRead s t.addr.toNat := by rw [hostRead_rdata, readData_out s hspace]
  refine ⟨fun hw => ?_, fun hw hi => ?_, fun hw hi v hv => ?_⟩
  · exact hostAccess_ignored o hw (isCommand_eq_false_of_space (by rw [hspace]; decide)) (hostStore_out s hspace)
  · exact ⟨_, hostAccess_read o hw, by rw [hread, outRead_of_not_lt hi.not_gt], hostRead_buf t s⟩
  · exact ⟨_, _, hostAccess_read o hw, by rw [hread, outRead_of_read hb hi hv], hostRead_buf t s,
      sampleBitsOf_spec _ _⟩

/-- Settles O60: in the reserved space the data is zero and nothing is stored. -/
theorem reservedSpaceReadsZero : Obligations.ReservedSpaceReadsZero := by
  unfold Obligations.ReservedSpaceReadsZero
  intro s t o hspace
  refine ⟨fun hw => ?_, fun hw => ⟨_, hostAccess_read o hw, ?_⟩⟩
  · exact hostAccess_ignored o hw (isCommand_eq_false_of_space (by rw [hspace]; decide)) (hostStore_reserved s hspace)
  · rw [hostRead, readData_reserved s hspace]

/-! ## Reads, and the block that waits -/

/-- A read changes the model's own `rdata` and `draws` only (rule R68). -/
theorem hostRead_frame (t : Transaction) (s : State) :
    hostRead t s = { s with rdata := (hostRead t s).rdata, draws := (hostRead t s).draws } := by rfl

/-- Settles O14: a read, idle or busy, is `hostRead`. -/
theorem readsChangeNothing : Obligations.ReadsChangeNothing := by
  unfold Obligations.ReadsChangeNothing
  exact fun s t overlap hw => ⟨_, hostAccess_read overlap hw, hostRead_frame t s⟩

/-- Idle, a turn of the sequencer changes nothing (rule R226). -/
theorem sequencerStep_idle {s : State} (h : s.seq.phase = .idle) : sequencerStep s = s := by
  simp [sequencerStep, h]

theorem hostPoll_idle {s : State} (hb : s.status.busy = false) : hostPoll s = hostRead statusRead s := by
  rcases hostPoll_cases s with ⟨hbusy, -⟩ | ⟨-, heq⟩
  · simp [hb] at hbusy
  · exact heq

/-- Settles O20: idle, the sequencer stands still, and both a read and the one poll of `wait` are `hostRead`. -/
theorem idleBlockWaitsForTheHost : Obligations.IdleBlockWaitsForTheHost := by
  unfold Obligations.IdleBlockWaitsForTheHost
  intro s hinv hb
  have hidle : s.seq.phase = .idle := hinv.phase.mpr hb
  refine ⟨fun hin => ?_, fun rest hin => ?_, fun rest hin => ?_, fun t o rest hin hw => ?_⟩
  · rw [step_no_event hin, sequencerStep_idle hidle]
  · rw [step_sequencer hin, sequencerStep_idle (s := { s with inputs := rest }) hidle]
  · rw [step_wait hin, hostPoll_idle (s := { s with inputs := rest }) hb]
    exact ⟨_, rfl, hostRead_frame statusRead { s with inputs := rest }⟩
  · rw [step_access hin, hostAccess_read o hw]
    exact ⟨_, rfl, hostRead_frame t { s with inputs := rest }⟩

end Sys2Proof.Machine
end

section
/-! PROOFS. A running command works on its working copy; the host sees its results at completion (20_memory.md rule R72,
70_reset_and_hazards.md rule R236). -/

namespace Sys2Proof.Machine

/-- `t` shows the host the results that `s` shows: `STATUS` and the visible `BUF`, `LEN` and `COEF`. -/
structure SameResults (s t : State) : Prop where
  status : t.status = s.status
  buf : t.buf = s.buf
  len : t.len = s.len
  coef : t.coef = s.coef

/-- A turn of the sequencer from `s` ends in `t`: without a change the host can see, or by completing a run whose results
were hidden until then. -/
def HidesOrCompletes (s t : State) : Prop := SameResults s t ∨ ∃ r, SameResults s r ∧ t = complete r

theorem SameResults.refl (s : State) : SameResults s s := ⟨rfl, rfl, rfl, rfl⟩

theorem SameResults.trans {s r t : State} (h : SameResults s r) (h' : SameResults r t) : SameResults s t :=
  ⟨h'.status.trans h.status, h'.buf.trans h.buf, h'.len.trans h.len, h'.coef.trans h.coef⟩

theorem SameResults.hidesOrCompletes {s r t : State} (h : SameResults s r) (h' : HidesOrCompletes r t) :
    HidesOrCompletes s t :=
  h'.imp h.trans fun ⟨q, hq, heq⟩ => ⟨q, h.trans hq, heq⟩

theorem hidesOrCompletes_complete (s : State) : HidesOrCompletes s (complete s) := .inr ⟨s, .refl s, rfl⟩

/-! ## The changes of phase -/

section
variable (s : State)

theorem leaveEqualizer_hidesOrCompletes : HidesOrCompletes s (leaveEqualizer s) := by
  rcases leaveEqualizer_cases s with heq | ⟨-, -, heq⟩ <;> rw [heq]
  · exact hidesOrCompletes_complete s
  · exact .inl ⟨rfl, rfl, rfl, rfl⟩

theorem leaveGen_hidesOrCompletes : HidesOrCompletes s (leaveGen s) := by
  rcases leaveGen_cases s with heq | ⟨-, -, heq⟩ <;> rw [heq]
  · exact leaveEqualizer_hidesOrCompletes s
  · exact .inl ⟨rfl, rfl, rfl, rfl⟩

theorem leaveDesign_hidesOrCompletes : HidesOrCompletes s (leaveDesign s) := by
  rcases leaveDesign_cases s with ⟨-, heq⟩ | ⟨-, -, heq⟩ <;> rw [heq]
  · exact hidesOrCompletes_complete s
  · exact .inl ⟨rfl, rfl, rfl, rfl⟩

theorem leaveFilt_hidesOrCompletes : HidesOrCompletes s (leaveFilt s) := by
  rcases leaveFilt_cases s with ⟨-, heq⟩ | ⟨-, heq⟩ <;> rw [heq]
  · exact .inl ⟨rfl, rfl, rfl, rfl⟩
  · exact hidesOrCompletes_complete s

theorem leaveNarrow_hidesOrCompletes : HidesOrCompletes s (leaveNarrow s) := by
  rcases leaveNarrow_cases s with ⟨-, heq⟩ | ⟨-, -, heq⟩ | ⟨-, -, heq⟩ <;> rw [heq]
  · exact hidesOrCompletes_complete s
  · exact .inl ⟨rfl, rfl, rfl, rfl⟩
  · exact leaveEqualizer_hidesOrCompletes s

/-! ## The turns of the phases -/

theorem storeEntry_sameResults (i : Nat) (v : W) : SameResults s (storeEntry i v s) := ⟨rfl, rfl, rfl, rfl⟩

theorem storeLen_sameResults (n : Nat) : SameResults s (storeLen n s) := ⟨rfl, rfl, rfl, rfl⟩

theorem storeCoef_sameResults (c : Coef) : SameResults s (storeCoef c s) := ⟨rfl, rfl, rfl, rfl⟩

theorem setDelay_sameResults (d : Delay) : SameResults s (setDelay d s) := ⟨rfl, rfl, rfl, rfl⟩

theorem bumpIndex_sameResults : SameResults s (bumpIndex s) := ⟨rfl, rfl, rfl, rfl⟩

theorem stepGen_hidesOrCompletes : HidesOrCompletes s (stepGen s) := by
  unfold stepGen
  split
  · exact .inl ((storeEntry_sameResults s _ _).trans (bumpIndex_sameResults _))
  · exact (storeLen_sameResults s _).hidesOrCompletes (leaveGen_hidesOrCompletes _)

theorem stepDesign_hidesOrCompletes : HidesOrCompletes s (stepDesign s) := by
  unfold stepDesign
  split <;> exact (storeCoef_sameResults s _).hidesOrCompletes (leaveDesign_hidesOrCompletes _)

theorem stepFilt_hidesOrCompletes : HidesOrCompletes s (stepFilt s) := by
  unfold stepFilt
  split
  · exact .inl (((storeEntry_sameResults s _ _).trans (setDelay_sameResults _ _)).trans (bumpIndex_sameResults _))
  · exact leaveFilt_hidesOrCompletes s

theorem stepNarrow_hidesOrCompletes : HidesOrCompletes s (stepNarrow s) := by
  unfold stepNarrow
  split
  · exact .inl ((storeEntry_sameResults s _ _).trans (bumpIndex_sameResults _))
  · exact leaveNarrow_hidesOrCompletes s

/-- Rule R236, for one turn of the sequencer in any phase. -/
theorem sequencerStep_hidesOrCompletes : HidesOrCompletes s (sequencerStep s) := by
  unfold sequencerStep
  split
  · exact .inl (.refl s)
  · exact stepGen_hidesOrCompletes s
  · exact stepDesign_hidesOrCompletes s
  · exact stepFilt_hidesOrCompletes s
  · exact stepNarrow_hidesOrCompletes s

end

/-- Settles O48: `complete` publishes the working copy, and `STATUS` until then is `BUSY` alone. -/
theorem runIsHiddenUntilCompletion : Obligations.RunIsHiddenUntilCompletion := by
  unfold Obligations.RunIsHiddenUntilCompletion
  intro s hinv hb
  have hpar := sequencerStep_par s
  rcases sequencerStep_hidesOrCompletes s with ⟨hstatus, hbuf, hlen, hcoef⟩ | ⟨r, hr, heq⟩
  · exact .inl ⟨_, rfl, hstatus, hbuf, hlen, hcoef, hpar⟩
  · have hdone : (complete r).status = statusDone := by
      rw [complete_status, hr.status, (hinv.inRun hb).status]
      rfl
    rw [heq] at hpar
    exact .inr ⟨_, heq, hdone, rfl, rfl, rfl, rfl, hpar⟩

end Sys2Proof.Machine
end

section
/-! PROOFS. What the decoder accepts and what it refuses (30_encoding.md rules R80 to R85), by way of the three fields of a
command word: a word is its fields, a row of the table is its opcode and operand, and the decoder reads the fields. -/

namespace Sys2Proof

/-! ### The fields of a word -/

theorem wordOpc_toNat (c : BitVec 32) : (wordOpc c).toNat = c.toNat % 16 := by simp [wordOpc]

theorem wordK_toNat (c : BitVec 32) : (wordK c).toNat = c.toNat / 16 % 16 := by
  simp [wordK, Nat.shiftRight_eq_div_pow]

theorem wordZero_toNat (c : BitVec 32) : (wordZero c).toNat = c.toNat / 256 := by
  have hc := c.isLt
  simp only [wordZero, BitVec.extractLsb'_toNat, Nat.shiftRight_eq_div_pow]
  omega

theorem wordZero_eq_zero_iff (c : BitVec 32) : wordZero c = 0 ↔ c.toNat < 256 := by
  rw [← BitVec.toNat_inj, wordZero_toNat]
  change c.toNat / 256 = 0 ↔ _
  omega

theorem wordK_eq_zero_iff (c : BitVec 32) : wordK c = 0 ↔ c.toNat / 16 % 16 = 0 := by
  rw [← BitVec.toNat_inj, wordK_toNat]
  rfl

theorem encode_toNat (i : Instr) : (encode i).toNat = 16 * i.operand.toNat + i.opcode.toNat := by
  have hopc := i.opcode.isLt
  simp only [encode, BitVec.toNat_append, BitVec.toNat_ofNat, Nat.zero_mod, Nat.zero_shiftLeft, Nat.zero_or]
  rw [← Nat.shiftLeft_add_eq_or_of_lt hopc, Nat.shiftLeft_eq]
  omega

/-- The layout of rule R80: the encoding is the only word with these three fields. -/
theorem encode_eq_iff {i : Instr} {c : BitVec 32} :
    encode i = c ↔ wordZero c = 0 ∧ wordK c = i.operand ∧ wordOpc c = i.opcode := by
  have hopc := i.opcode.isLt
  have hk := i.operand.isLt
  rw [wordZero_eq_zero_iff]
  simp only [← BitVec.toNat_inj, encode_toNat, wordK_toNat, wordOpc_toNat]
  omega

/-! ### The rows of the table (rule R84) -/

theorem Instr.wf_iff (i : Instr) : i.wf = true ↔ (i.opcode.toNat = 3 → i.operand.toNat ≤ 9) := by
  cases i <;> simp [Instr.wf, Instr.opcode, Instr.operand]

/-- Rule R82: only `DSGN_EQ` takes an operand. -/
theorem Instr.operand_eq_zero {i : Instr} (h : i.opcode.toNat ≠ 3) : i.operand = 0 := by
  cases i with
  | dsgnEq k => exact absurd rfl h
  | _ => rfl

theorem commandOf_opcode (i : Instr) : commandOf i.opcode i.operand = some i := by
  cases i <;> rfl

/-- A row's command has the row's opcode, and `K` as its operand in the one row that takes one. -/
theorem commandOf_eq_some {opc k : BitVec 4} {i : Instr} (h : commandOf opc k = some i) :
    opc = i.opcode ∧ (opc.toNat = 3 → k = i.operand) := by
  unfold commandOf at h
  split at h <;> cases h <;>
    exact ⟨BitVec.eq_of_toNat_eq ‹_›, by simp_all [Instr.operand]⟩

theorem exists_commandOf_iff (opc k : BitVec 4) :
    (∃ i, commandOf opc k = some i) ↔ 1 ≤ opc.toNat ∧ opc.toNat ≤ 8 := by
  rw [← Option.isSome_iff_exists]
  revert opc k
  decide

/-! ### The decoder (rule R83) -/

/-- The decoder's four checks pass, and the table's row gives the command; that the opcode is 1 to 8 follows from
the row. -/
theorem decode_eq_ok_iff {c : BitVec 32} {i : Instr} :
    decode c = .ok i ↔
      wordZero c = 0 ∧ ((wordOpc c).toNat ≠ 3 → wordK c = 0) ∧
        ((wordOpc c).toNat = 3 → (wordK c).toNat ≤ 9) ∧ commandOf (wordOpc c) (wordK c) = some i := by
  constructor
  · intro h
    unfold decode at h
    split_ifs at h with hzero hopc hk hband
    refine ⟨not_not.1 hzero, fun h3 => not_not.1 fun h0 => hk ⟨h3, h0⟩, by omega, ?_⟩
    split at h
    · next hrow => rw [hrow, Except.ok.inj h]
    · cases h
  · rintro ⟨hzero, hk, hband, hrow⟩
    have hopc := (exists_commandOf_iff _ _).1 ⟨i, hrow⟩
    unfold decode
    rw [if_neg (not_not.2 hzero), if_neg (by omega), if_neg fun h => h.2 (hk h.1), if_neg (by omega), hrow]

/-- Settles O1: the checks and the row on one side, the fields and the band's bound on the other. -/
theorem decodeAcceptsExactlyTheEncodings : Obligations.DecodeAcceptsExactlyTheEncodings := by
  unfold Obligations.DecodeAcceptsExactlyTheEncodings
  intro c i
  rw [decode_eq_ok_iff, encode_eq_iff, i.wf_iff]
  constructor
  · rintro ⟨hzero, hk, hband, hrow⟩
    obtain ⟨hopc, hoperand⟩ := commandOf_eq_some hrow
    have hfield : wordK c = i.operand := by
      by_cases h3 : (wordOpc c).toNat = 3
      · exact hoperand h3
      · rw [hk h3, Instr.operand_eq_zero (hopc ▸ h3)]
    exact ⟨hopc ▸ hfield ▸ hband, hzero, hfield, hopc⟩
  · rintro ⟨hband, hzero, hk, hopc⟩
    rw [hk, hopc]
    exact ⟨hzero, Instr.operand_eq_zero, hband, commandOf_opcode i⟩

theorem exists_decode_error_iff (c : BitVec 32) : (∃ e, decode c = .error e) ↔ ¬ ∃ i, decode c = .ok i := by
  cases decode c <;> simp

/-- Settles O2: a word is refused when a check fails or the table has no row, and each is a bound on the word's number. -/
theorem illegalWordsAreTheReservedEncodings : Obligations.IllegalWordsAreTheReservedEncodings := by
  unfold Obligations.IllegalWordsAreTheReservedEncodings
  intro c
  simp only [exists_decode_error_iff, decode_eq_ok_iff, exists_and_left, exists_commandOf_iff, wordZero_eq_zero_iff,
    wordK_eq_zero_iff, wordK_toNat, wordOpc_toNat]
  omega

/-- Settles O3: each word is the encoding of its command, so O1 gives what it decodes to. -/
theorem wordsOfTheTableDecode : Obligations.WordsOfTheTableDecode := by
  have hdecode {c : BitVec 32} {i : Instr} (h : i.wf = true ∧ encode i = c) : decode c = .ok i :=
    (decodeAcceptsExactlyTheEncodings c i).2 h
  unfold Obligations.WordsOfTheTableDecode
  refine ⟨hdecode ?_, hdecode ?_, hdecode ?_, hdecode ?_, hdecode ?_, hdecode ?_, hdecode ?_, hdecode ?_, hdecode ?_⟩ <;>
    decide

end Sys2Proof
end

section
/-! PROOFS. The zeros of the working format in products and quotients (00_scope.md rules R11, R12), and the configuration
functions as the block applies them (rules R15 to R17). The first Sine sample brings the two together. -/

namespace Sys2Proof.Machine

/-! ## Zeros -/

@[simp] theorem roundNearest_zero (q t : Nat) : roundNearest 0 q t = 0 := by
  simp [roundNearest]

/-- An exact zero keeps the sign it is given (rule R11). -/
@[simp] theorem fl_zero (neg : Bool) (q : Nat) : fl neg 0 q = .fin neg 0 := by
  have hpos : 0 < 2 ^ 2098 := pow_pos two_pos 2098
  unfold fl overflowW
  rw [roundNearest_zero]
  exact if_neg hpos.not_ge

theorem mulW_zero_right {a b : W} {p q : Bool} {m : Nat} (ha : unpack a = .fin p m) (hb : unpack b = .fin q 0) :
    unpack (mulW a b) = .fin (p ^^ q) 0 := by
  rw [mulW_eq ha hb, mulNum, Nat.mul_zero, fl_zero, unpack_pack_zero]

theorem divW_zero_left {a b : W} {p q : Bool} {n : Nat} (ha : unpack a = .fin p 0) (hb : unpack b = .fin q n)
    (hn : n ≠ 0) : unpack (divW a b) = .fin (p ^^ q) 0 := by
  rw [divW_eq ha hb, divNum, if_neg hn, Nat.zero_mul, fl_zero, unpack_pack_zero]

/-- Each zero has one pattern, the sign bit alone. -/
theorem unpack_eq_zero_iff (b : BitVec 64) (neg : Bool) :
    unpack (.pat b) = .fin neg 0 ↔ b = signedFields 64 neg 0 := by
  have hpattern : pack (.fin neg 0) = .pat (signedFields 64 neg 0) := pack_fin neg 0
  constructor
  · intro h
    have hpack : pack (unpack (.pat b)) = .pat b := pack_unpack (by simp [h])
    rw [h, hpattern] at hpack
    exact (W.pat.inj hpack).symm
  · rintro rfl
    rw [← hpattern, unpack_pack_zero]

/-- A positive `RATE` converts to a positive finite value (rules R13, R25). -/
theorem unpack_toW_rate {rate : Int} (hpos : 0 < rate) (hlt : rate < 2 ^ 31) :
    ∃ k, k ≠ 0 ∧ unpack (toW rate) = .fin false k := by
  have hmag : rate.natAbs ≠ 0 := Int.natAbs_ne_zero.mpr hpos.ne'
  refine ⟨rate.natAbs * 2 ^ 1074, Nat.mul_ne_zero hmag (pow_pos two_pos 1074).ne', ?_⟩
  rw [integersConvertExactly rate (by omega), decide_eq_false hpos.not_gt]

theorem isNegative_fin {v : W} {neg : Bool} {m : Nat} (h : unpack v = .fin neg m) :
    isNegative v = (neg && decide (m ≠ 0)) := by
  rw [isNegative, h]

theorem floorInt_zero {v : W} {neg : Bool} (h : unpack v = .fin neg 0) : floorInt v = some 0 := by
  have hmag : floorMag neg 0 = 0 := Nat.le_zero.mp (floorMag_le neg (Nat.zero_le _))
  rw [floorInt_fin h, Int.natAbs_eq_zero.mp ((floorSigned_natAbs neg 0).trans hmag)]

/-! ## The configuration functions -/

@[simp] theorem isNaN_nan : isNaN .nan = true := (isNaN_iff _).mpr unpack_nan

theorem isNaN_eq_false_of_fin {v : W} {neg : Bool} {m : Nat} (h : unpack v = .fin neg m) : isNaN v = false := by
  rw [isNaN, h]

theorem forgetNaN_of_nan {v : W} (h : isNaN v = true) : forgetNaN v = .nan := if_pos h

theorem forgetNaN_of_number {v : W} (h : isNaN v = false) : forgetNaN v = v := by
  simp [forgetNaN, h]

@[simp] theorem isNaN_forgetNaN (v : W) : isNaN (forgetNaN v) = isNaN v := by
  cases h : isNaN v
  case false => rw [forgetNaN_of_number h, h]
  case true => rw [forgetNaN_of_nan h, isNaN_nan]

section ApplyFn

variable (g : W → W) {v : W}

theorem applyFn_of_number (h : isNaN v = false) : applyFn g v = forgetNaN (g v) := by
  rw [applyFn, forgetNaN_of_number h]

theorem applyFn_of_nan (h : isNaN v = true) : applyFn g v = forgetNaN (g .nan) := by
  rw [applyFn, forgetNaN_of_nan h]

end ApplyFn

/-! ## The first sample -/

/-- At index 0 the time is `+0` (rule R102). -/
theorem timeOf_zero {rate : Int} (hpos : 0 < rate) (hlt : rate < 2 ^ 31) : unpack (timeOf rate 0) = .fin false 0 := by
  obtain ⟨k, hk, hrate⟩ := unpack_toW_rate hpos hlt
  have hindex : unpack (toW ((0 : Nat) : Int)) = .fin false 0 := by
    rw [integersConvertExactly _ (by decide), Int.natAbs_natCast, Nat.zero_mul]
    rfl
  exact divW_zero_left hindex hrate hk

/-- `SIN_ZERO`, as the block uses `SIN`: a zero goes to the zero of its sign (rule R15). -/
theorem SinZero.applyFn_sin {f : Functions} (hf : SinZero f) {v : W} {neg : Bool} (hv : unpack v = .fin neg 0) :
    applyFn f.sin v = v := by
  have hsin : f.sin v = v := by
    cases v with
    | nan => rw [unpack_nan] at hv; cases hv
    | pat b =>
      rw [(unpack_eq_zero_iff b neg).mp hv]
      cases neg
      case false => exact hf.1
      case true => exact hf.2
  have hnum : isNaN v = false := isNaN_eq_false_of_fin hv
  rw [applyFn_of_number f.sin hnum, hsin, forgetNaN_of_number hnum]

/-- Settles O59: the block drops a NaN's pattern before and after the function; and at index 0 the time, the phase and the
sine are `+0`, so that the product with `AMP` has the sign of `AMP`. -/
theorem functionsApplyAndFirstSineIsZero : Obligations.FunctionsApplyAndFirstSineIsZero := by
  unfold Obligations.FunctionsApplyAndFirstSineIsZero
  refine ⟨fun g v => ⟨fun hv hg => ?numbers, fun hv hg => ?nanResult, fun hv hg => ?nanOperand, fun hv hg => ?nans⟩,
    fun f freq amp rate neg m k hf hpos hlt hamp hfreq => ?firstSine⟩
  case numbers => rw [applyFn_of_number g hv, forgetNaN_of_number hg]
  case nanResult => rw [applyFn_of_number g hv, isNaN_forgetNaN, hg]
  case nanOperand => rw [applyFn_of_nan g hv, forgetNaN_of_number hg]
  case nans => rw [applyFn_of_nan g hv, isNaN_forgetNaN, hg]
  case firstSine =>
    have hphase : unpack (phaseOf freq (timeOf rate 0)) = .fin false 0 := mulW_zero_right hfreq (timeOf_zero hpos hlt)
    rw [sineSample, hf.applyFn_sin hphase, mulW_zero_right hamp hphase, Bool.xor_false]

end Sys2Proof.Machine
end

section
/-! PROOFS. `GEN` (40_sine_cosine_generator.md rules R100 to R107, 41_square_sawtooth_generator.md rules R116, R118): when its
checks pass, and what an accepted `GEN` leaves. -/

namespace Sys2Proof.Machine

/-! ## The checks that pass -/

theorem waveOf_ne_none {p : Params} (h : p.ctrl.extractLsb' 0 2 ≠ 3#2) : waveOf p ≠ none := by
  unfold waveOf
  generalize p.ctrl.extractLsb' 0 2 = c at h
  revert c
  decide

theorem genLength_of_floorInt {p : Params} {n : Nat} (h : floorInt (mulW (toW p.rate.toInt) (.pat p.dur)) = some (n : Int)) :
    genLength p = some n := by
  have hproduct : lengthProduct p = mulW (toW p.rate.toInt) (.pat p.dur) := by rw [lengthProduct, rateInt, durW]
  rw [genLength, hproduct, h, Option.map_some, Int.toNat_natCast]

/-- The conditions of rule R209 under which the generator's checks all pass. -/
theorem genCheck_eq_none {cfg : Config} {p : Params} {n : Nat} (hwave : waveOf p ≠ none) (hrate : 0 < p.rate.toInt)
    (hdur : isNegative (.pat p.dur) = false) (hn : genLength p = some n) (hcap : n ≤ cfg.bufDepth) :
    genCheck cfg p = none := by
  rw [genCheck, if_neg hwave, if_neg (show ¬ rateInt p ≤ 0 from hrate.not_ge), durW, if_neg (by simp [hdur]), hn]
  exact if_neg hcap.not_gt

/-! ## What an accepted `GEN` leaves -/

@[simp] theorem genStage_work_buf (s : State) :
    (genStage s).work.buf =
      Memory.writeList s.work.buf 0 ((List.range (genLengthD s.par)).map (genSample s.cfg s.par)) := by
  simp [genStage]

@[simp] theorem genStage_work_len (s : State) : (genStage s).work.len = BitVec.ofNat 32 (genLengthD s.par) := by
  simp [genStage]

@[simp] theorem genStage_work_coef (s : State) : (genStage s).work.coef = s.work.coef := by
  simp [genStage]

/-- The state in which a `GEN` whose checks pass ends. -/
def genDone (s : State) : State := complete (genStage (accept .gen s))

theorem exec_gen {s : State} (hb : s.status.busy = false) (hc : genCheck s.cfg s.par = none) :
    exec .gen s = .next (genDone s) :=
  (exec_eq_runCommand .gen s).trans (runCommand_accepted genStage hb hc)

section GenDone

variable (s : State)

theorem genDone_status : (genDone s).status = statusDone := by
  simp [genDone, statusComplete, statusBusy, statusDone]

theorem genDone_phase : (genDone s).seq.phase = .idle := by simp [genDone]

theorem genDone_coef : (genDone s).coef = s.coef := by simp [genDone, takeWork]

theorem genDone_delay : (genDone s).delay = s.delay := by simp [genDone, firstPhase]

theorem untouched_genDone : Untouched s (genDone s) := by simp [Untouched, genDone]

variable {s} {n : Nat} (hn : genLength s.par = some n)
include hn

theorem genDone_len : (genDone s).len = BitVec.ofNat 32 n := by simp [genDone, genLengthD, hn]

theorem genDone_buf :
    (genDone s).buf = Memory.writeList s.buf 0 ((List.range n).map (genSample s.cfg s.par)) := by
  simp [genDone, genLengthD, hn, takeWork]

/-- Rule R100: the samples fill the entries below `N`, and every other entry stays. -/
theorem read_genDone_buf (i : Nat) :
    Memory.read (genDone s).buf i = if i < n then some (genSample s.cfg s.par i) else Memory.read s.buf i := by
  rw [genDone_buf hn, read_writeList]
  by_cases hi : i < n <;> simp [hi]

end GenDone

/-- The sample of the selected wave (rule R100). -/
theorem genSample_of_wave (cfg : Config) {p : Params} {wave : Wave} (h : waveOf p = some wave) (i : Nat) :
    genSample cfg p i =
      waveSample Config.functions cfg.signZero wave (freqW p) (ampW p) (timeOf (rateInt p) i) := by
  rw [genSample, genSampleWith, h, Option.getD_some]

/-! ## The obligations on `GEN` -/

theorem bufDepth_le_of_wf {cfg : Config} (h : cfg.wf = true) : cfg.bufDepth ≤ 2 ^ 31 := by
  simp only [Config.wf, Bool.and_eq_true, decide_eq_true_eq] at h
  obtain ⟨⟨-, hdepth⟩, -⟩ := h
  exact hdepth

/-- Settles O25: the checks pass, and the entries below `N` are the samples of the selected wave by its own recipe. -/
theorem genWritesTheWaveform : Obligations.GenWritesTheWaveform := by
  unfold Obligations.GenWritesTheWaveform
  intro s wave n hcfg hb hwave hrate hdur hfloor hcap
  have hn : genLength s.par = some n := genLength_of_floorInt hfloor
  have hcheck : genCheck s.cfg s.par = none := genCheck_eq_none (by simp [hwave]) hrate hdur hn hcap
  have hword : n < 2 ^ 32 := (hcap.trans (bufDepth_le_of_wf hcfg)).trans_lt (by decide)
  refine ⟨genDone s, timeOf s.par.rate.toInt, fun i => phaseOf (.pat s.par.freq) (timeOf s.par.rate.toInt i),
    fun i => mulW (.pat s.par.freq) (timeOf s.par.rate.toInt i), exec_gen hb hcheck, genDone_status s, genDone_phase s,
    ?len, fun i => ⟨rfl, rfl, rfl⟩, fun i hi => ?samples, fun i hi => ?beyond, genDone_coef s, genDone_delay s,
    untouched_genDone s⟩
  case len => rw [genDone_len hn, BitVec.toNat_ofNat, Nat.mod_eq_of_lt hword]
  case samples =>
    rw [read_genDone_buf hn, if_pos hi, genSample_of_wave s.cfg hwave]
    cases wave <;> rfl
  case beyond => rw [read_genDone_buf hn, if_neg hi.not_gt]

/-- Settles O26: the product of the rate with a zero is a zero, its floor is 0, and a list of no samples writes nothing. -/
theorem zeroDurationGivesAnEmptyBuffer : Obligations.ZeroDurationGivesAnEmptyBuffer := by
  unfold Obligations.ZeroDurationGivesAnEmptyBuffer
  intro s hb hctrl hrate hdur
  obtain ⟨neg, hzero⟩ : ∃ neg, unpack (.pat s.par.dur) = .fin neg 0 := by
    rcases hdur with h | h
    · exact ⟨false, (unpack_eq_zero_iff _ _).mpr h⟩
    · exact ⟨true, (unpack_eq_zero_iff _ _).mpr h⟩
  obtain ⟨k, -, hk⟩ := unpack_toW_rate hrate (BitVec.toInt_lt (x := s.par.rate))
  have hn : genLength s.par = some 0 := genLength_of_floorInt (floorInt_zero (mulW_zero_right hk hzero))
  have hcheck : genCheck s.cfg s.par = none :=
    genCheck_eq_none (waveOf_ne_none hctrl) hrate (by simp [isNegative_fin hzero]) hn (Nat.zero_le _)
  exact ⟨genDone s, exec_gen hb hcheck, genDone_status s, genDone_len hn, genDone_buf hn, genDone_coef s,
    untouched_genDone s⟩

end Sys2Proof.Machine
end

section
/-! PROOFS. `sign` (41_square_sawtooth_generator.md rule R117): one rule per row of its table. -/

namespace Sys2Proof.Machine

theorem unpack_zero : unpack W.zero = .fin false 0 := (unpack_eq_zero_iff 0#64 false).mpr rfl

/-! ## The rows of the table -/

section SignRows

variable (z : SignZero) {v : W} {neg : Bool}

theorem signW_nan (h : unpack v = .nan) : signW z v = .nan := by
  rw [signW.eq_def, h]

theorem signW_inf (h : unpack v = .inf neg) : signW z v = if neg = true then wMinusOne else wOne := by
  rw [signW.eq_def, h]

theorem signW_fin {m : Nat} (h : unpack v = .fin neg m) (hm : m ≠ 0) :
    signW z v = if neg = true then wMinusOne else wOne := by
  rw [signW.eq_def, h]
  exact if_neg hm

theorem signW_plusOne_of_zero (h : unpack v = .fin neg 0) : signW .plusOne v = wOne := by
  rw [signW.eq_def, h]
  exact if_pos rfl

theorem signW_zero_of_zero (h : unpack v = .fin neg 0) : signW .zero v = W.zero := by
  rw [signW.eq_def, h]
  exact if_pos rfl

end SignRows

/-- Settles O58: row by row of the table; with `SIGN_ZERO = 0` the value at either zero is `+0`. -/
theorem signTable : Obligations.SignTable := by
  unfold Obligations.SignTable
  refine fun z v => ⟨fun hv => ?nan, fun neg hv => signW_inf z hv, fun neg m hv hm => signW_fin z hv hm,
    fun neg hv => ⟨signW_plusOne_of_zero hv, false, ?zero⟩⟩
  case nan => rw [signW_nan z ((isNaN_iff v).mp hv), isNaN_nan]
  case zero => rw [signW_zero_of_zero hv, unpack_zero]

end Sys2Proof.Machine
end

section
/-! PROOFS. The biquad coefficient designer (42_biquad_coefficient_designer.md rules R131 to R137): the recipes of the two
designs, coefficient by coefficient, and what a completed design leaves. -/

namespace Sys2Proof.Machine

/-- The angle both designs start from: `w0` of rule R132, `w` of rule R137. -/
def designAngle (fc : W) (rate : Int) : W := mulW wTwoPi (divW fc (nyquist rate))

/-! ## The resonator recipe (rule R132) -/

/-- `alpha` of rule R132. -/
def resAlpha (f : Functions) (cutoff q : W) (rate : Int) : W :=
  divW (applyFn f.sin (designAngle cutoff rate)) (mulW wTwo q)

section ResonatorRecipe

variable (f : Functions) (divided : Bool) (cutoff q : W) (rate : Int)

@[simp] theorem designRes_a0 : (designRes f divided cutoff q rate).a0 = addW wOne (resAlpha f cutoff q rate) := rfl

@[simp] theorem designRes_a1 :
    (designRes f divided cutoff q rate).a1 = mulW wMinusTwo (applyFn f.cos (designAngle cutoff rate)) := rfl

@[simp] theorem designRes_a2 : (designRes f divided cutoff q rate).a2 = subW wOne (resAlpha f cutoff q rate) := rfl

theorem designRes_b0 :
    (designRes f divided cutoff q rate).b0 = divW wOne (designRes f divided cutoff q rate).a0 := rfl

/-- `RES_B1_DIVIDED` (rule R133) divides `b1` alone. -/
theorem designRes_b1 :
    (designRes f divided cutoff q rate).b1 =
      if divided = true then divW (designRes f divided cutoff q rate).a1 (designRes f divided cutoff q rate).a0
      else (designRes f divided cutoff q rate).a1 := rfl

theorem designRes_b2 : (designRes f divided cutoff q rate).b2 = (designRes f divided cutoff q rate).b0 := rfl

end ResonatorRecipe

/-! ## The band recipe (rule R137) -/

/-- `A` of rule R137. -/
def bandAmplitude (f : Functions) (gainDb : W) : W := applyFn f.pow10 (divW gainDb wForty)

/-- `w2` of rule R137. -/
def bandSquare (fc : W) (rate : Int) : W := mulW (designAngle fc rate) (designAngle fc rate)

/-- `sw` of rule R137. -/
def bandScaled (fc : W) (rate : Int) : W := mulW wTwoSqrt2 (designAngle fc rate)

/-- `denom` of rule R137. -/
def bandDenom (fc : W) (rate : Int) : W := addW (addW wFour (bandScaled fc rate)) (bandSquare fc rate)

section BandRecipe

variable (f : Functions) (fc gainDb : W) (rate : Int)

@[simp] theorem designEq_a0 : (designEq f fc gainDb rate).a0 = wOne := rfl

@[simp] theorem designEq_a1 :
    (designEq f fc gainDb rate).a1 = divW (mulW wTwo (subW (bandSquare fc rate) wFour)) (bandDenom fc rate) := rfl

@[simp] theorem designEq_a2 :
    (designEq f fc gainDb rate).a2 =
      divW (addW (subW wFour (bandScaled fc rate)) (bandSquare fc rate)) (bandDenom fc rate) := rfl

@[simp] theorem designEq_b0 :
    (designEq f fc gainDb rate).b0 = divW (mulW (bandAmplitude f gainDb) (bandSquare fc rate)) (bandDenom fc rate) := rfl

@[simp] theorem designEq_b1 :
    (designEq f fc gainDb rate).b1 =
      divW (mulW (mulW wTwo (bandAmplitude f gainDb)) (bandSquare fc rate)) (bandDenom fc rate) := rfl

theorem designEq_b2 : (designEq f fc gainDb rate).b2 = (designEq f fc gainDb rate).b0 := rfl

end BandRecipe

/-- Every band of the equalizer has a gain register (rule R30). -/
theorem gainW_of_lt (p : Params) {k : BitVec 4} (hk : k.toNat < 10) : gainW p k = .pat (p.gain[k.toNat]) := dif_pos hk

/-! ## What a completed design leaves -/

/-- The state in which an accepted design `i` of the set `c` ends. -/
def designDone (i : Instr) (c : Coef) (s : State) : State := complete (storeCoef c (accept i s))

/-- `DSGN_RES` has no argument check. -/
theorem exec_dsgnRes {s : State} (hb : s.status.busy = false) :
    exec .dsgnRes s = .next (designDone .dsgnRes (resCoef s.cfg s.par) s) :=
  (exec_eq_runCommand .dsgnRes s).trans (runCommand_accepted designResStage hb rfl)

/-- The one check of `DSGN_EQ k` is that `k` names a band. -/
theorem exec_dsgnEq {s : State} {k : BitVec 4} (hb : s.status.busy = false) (hk : k.toNat < 10) :
    exec (.dsgnEq k) s = .next (designDone (.dsgnEq k) (bandCoef s.par k) s) :=
  have hcheck : argCheck s.cfg s.par (.dsgnEq k) = none := if_pos (Nat.le_of_lt_succ hk)
  (exec_eq_runCommand (.dsgnEq k) s).trans (runCommand_accepted (designBandStage k) hb hcheck)

section DesignDone

variable (i : Instr) (c : Coef) (s : State)

theorem designDone_status : (designDone i c s).status = statusDone := by
  simp [designDone, statusComplete, statusBusy, statusDone]

theorem designDone_phase : (designDone i c s).seq.phase = .idle := by simp [designDone]

@[simp] theorem designDone_coef : (designDone i c s).coef = c := by simp [designDone]

theorem designDone_buf : (designDone i c s).buf = s.buf := by simp [designDone, takeWork]

theorem designDone_len : (designDone i c s).len = s.len := by simp [designDone, takeWork]

/-- Only a command that starts with the filter clears the delay registers (rule R152). -/
theorem designDone_delay (hi : firstPhase i = .design) : (designDone i c s).delay = s.delay := by
  simp [designDone, hi]

theorem untouched_designDone : Untouched s (designDone i c s) := by simp [Untouched, designDone]

end DesignDone

/-! ## The obligations on the designer -/

/-- Settles O27: an idle `DSGN_RES` is always accepted, and its set is `resCoef`, read off the recipe of rule R132. -/
theorem dsgnResWritesTheResonatorSet : Obligations.DsgnResWritesTheResonatorSet := by
  unfold Obligations.DsgnResWritesTheResonatorSet
  intro s hb
  refine ⟨designDone .dsgnRes (resCoef s.cfg s.par) s,
    resAlpha Config.functions (cutoffW s.par) (resqW s.par) (rateInt s.par), designAngle (cutoffW s.par) (rateInt s.par),
    exec_dsgnRes hb, designDone_status _ _ s, designDone_phase _ _ s, rfl, rfl, ?a0, ?b0, ?b2, ?a1, ?b1, ?a2,
    designDone_buf _ _ s, designDone_len _ _ s, designDone_delay _ _ s rfl, untouched_designDone _ _ s⟩
  all_goals rw [designDone_coef, resCoef]
  case a0 => rw [designRes_a0]
  case b0 => rw [designRes_b0]
  case b2 => rw [designRes_b2]
  case a1 => rw [designRes_a1, Config.functions]
  case b1 => rw [designRes_b1]
  case a2 => rw [designRes_a2]

/-- Settles O28: for a band an idle `DSGN_EQ k` is accepted, and its set is `bandCoef`, read off the recipe of rule R137 at
the gain register of the band. -/
theorem dsgnEqWritesTheBandSet : Obligations.DsgnEqWritesTheBandSet := by
  unfold Obligations.DsgnEqWritesTheBandSet
  intro s k hk hb
  refine ⟨designDone (.dsgnEq k) (bandCoef s.par k) s, bandAmplitude Config.functions (gainW s.par k),
    designAngle (fcW k) (rateInt s.par), bandSquare (fcW k) (rateInt s.par), bandScaled (fcW k) (rateInt s.par),
    bandDenom (fcW k) (rateInt s.par), exec_dsgnEq hb hk, designDone_status _ _ s, designDone_phase _ _ s,
    ?amplitude, rfl, rfl, rfl, rfl, ?b0, ?b1, ?b2, ?a0, ?a1, ?a2,
    designDone_buf _ _ s, designDone_len _ _ s, designDone_delay _ _ s rfl, untouched_designDone _ _ s⟩
  case amplitude => rw [bandAmplitude, gainW_of_lt s.par hk, Config.functions]
  all_goals rw [designDone_coef, bandCoef]
  case b0 => rw [designEq_b0]
  case b1 => rw [designEq_b1]
  case b2 => rw [designEq_b2]
  case a0 => rw [designEq_a0]
  case a1 => rw [designEq_a1]
  case a2 => rw [designEq_a2]

end Sys2Proof.Machine
end

section
/-! PROOFS. The biquad filter pass (43_biquad_filter_df2.md rules R150 to R157) as signals: the delay registers before each
sample and the output at it, in each of the three forms, and what a completed `FILT` leaves. -/

namespace Sys2Proof.Machine

/-! ## A pass as signals -/

/-- The delay registers before sample `j` of a pass over the signal `x` (rule R152). -/
def filterDelay (form : BiquadForm) (c : Coef) (x : Nat → W) : Nat → Delay
  | 0 => Delay.zero form
  | j + 1 => (filterStep c (filterDelay form c x j) (x j)).2

/-- The output at sample `j` of a pass over the signal `x`. -/
def filterOutput (form : BiquadForm) (c : Coef) (x : Nat → W) (j : Nat) : W :=
  (filterStep c (filterDelay form c x j) (x j)).1

/-- A run of the filter over the first `n` samples, by its two signals. -/
theorem filterList_range (form : BiquadForm) (c : Coef) (x : Nat → W) (n : Nat) :
    filterList c (Delay.zero form) ((List.range n).map x) =
      ((List.range n).map (filterOutput form c x), filterDelay form c x n) := by
  induction n with
  | zero => rfl
  | succ n ih =>
    rw [List.range_succ, List.map_append, List.map_append, filterList_append, ih]
    rfl

theorem filterPass_range (form : BiquadForm) (c : Coef) (x : Nat → W) (n : Nat) :
    filterPass form c ((List.range n).map x) = (List.range n).map (filterOutput form c x) := by
  rw [filterPass, filterList_range]

/-- A list as a signal; `+0` beyond its end, where no pass over it reads. -/
def listSignal (xs : List W) (j : Nat) : W := xs[j]?.getD W.zero

theorem map_listSignal_range (xs : List W) : (List.range xs.length).map (listSignal xs) = xs := by
  refine List.ext_getElem (by simp) fun j _ hj => ?_
  simp [listSignal, hj]

/-- The outputs of a pass over a list are values of the output signal. -/
theorem filterPass_eq_map (form : BiquadForm) (c : Coef) (xs : List W) :
    filterPass form c xs = (List.range xs.length).map (filterOutput form c (listSignal xs)) := by
  rw [← filterPass_range, map_listSignal_range]

theorem eq_filterOutput_of_getElem? {form : BiquadForm} {c : Coef} {xs : List W} {j : Nat} {y : W}
    (h : (filterPass form c xs)[j]? = some y) : y = filterOutput form c (listSignal xs) j := by
  rw [filterPass_eq_map, List.getElem?_eq_some_iff] at h
  obtain ⟨hj, rfl⟩ := h
  simp

/-! ## Past samples (rule R32) -/

section Delayed

variable (x : Nat → W) (j d : Nat)

@[simp] theorem delayed_at_zero : delayed x 0 (d + 1) = W.zero := if_pos (Nat.succ_pos d)

@[simp] theorem delayed_by_zero : delayed x j 0 = x j := if_neg (Nat.not_lt_zero j)

@[simp] theorem delayed_succ_succ : delayed x (j + 1) (d + 1) = delayed x j d := by
  simp only [delayed, Nat.add_lt_add_iff_right, Nat.add_sub_add_right]

/-- What holds of `+0` and of the samples up to `d` before index `j` holds of the past sample. -/
theorem delayed_of_forall {P : W → Prop} (hzero : P W.zero) (hx : ∀ k, k + d ≤ j → P (x k)) : P (delayed x j d) := by
  unfold delayed
  split
  case isTrue => exact hzero
  case isFalse h => exact hx (j - d) (by omega)

end Delayed

/-! ## The three forms -/

section Forms

variable (c : Coef) (x : Nat → W) (j : Nat)

/-- In form DF1 the registers hold the past two inputs and outputs (rule R152). -/
theorem filterDelay_df1 :
    filterDelay .df1 c x j =
      .df1 (delayed x j 1) (delayed x j 2) (delayed (filterOutput .df1 c x) j 1)
        (delayed (filterOutput .df1 c x) j 2) := by
  induction j with
  | zero => simp [filterDelay, Delay.zero]
  | succ j ih => simp [filterDelay, filterOutput, ih, filterStep]

/-- Rule R153. -/
theorem filterOutput_df1 :
    filterOutput .df1 c x j =
      subW (subW (addW (addW (mulW c.b0 (x j)) (mulW c.b1 (delayed x j 1))) (mulW c.b2 (delayed x j 2)))
        (mulW c.a1 (delayed (filterOutput .df1 c x) j 1))) (mulW c.a2 (delayed (filterOutput .df1 c x) j 2)) := by
  conv_lhs => rw [filterOutput, filterDelay_df1, filterStep, stepDf1]

/-- The first delay register: `X1`, `W1` or `S1` (rule R32). -/
def Delay.first : Delay → W
  | .df1 x1 _ _ _ => x1
  | .df2 w1 _ => w1
  | .tdf2 s1 _ => s1

/-- The second delay register: `X2`, `W2` or `S2` (rule R32). -/
def Delay.second : Delay → W
  | .df1 _ x2 _ _ => x2
  | .df2 _ w2 => w2
  | .tdf2 _ s2 => s2

/-- The hidden signal of form DF2 (rule R156): sample `j` leaves it in `W1`. -/
def hiddenDf2 (c : Coef) (x : Nat → W) (j : Nat) : W := (filterDelay .df2 c x (j + 1)).first

/-- In form DF2 the registers hold the past two values of the hidden signal (rule R156). -/
theorem filterDelay_df2 :
    filterDelay .df2 c x j = .df2 (delayed (hiddenDf2 c x) j 1) (delayed (hiddenDf2 c x) j 2) := by
  induction j with
  | zero => simp [filterDelay, Delay.zero]
  | succ j ih => simp [hiddenDf2, filterDelay, ih, filterStep, Delay.first]

/-- Rule R156, the hidden signal. -/
theorem hiddenDf2_eq :
    hiddenDf2 c x j =
      subW (subW (x j) (mulW c.a1 (delayed (hiddenDf2 c x) j 1))) (mulW c.a2 (delayed (hiddenDf2 c x) j 2)) := by
  conv_lhs => rw [hiddenDf2, filterDelay, filterDelay_df2, filterStep, Delay.first]

/-- Rule R156, the output. -/
theorem filterOutput_df2 :
    filterOutput .df2 c x j =
      addW (addW (mulW c.b0 (hiddenDf2 c x j)) (mulW c.b1 (delayed (hiddenDf2 c x) j 1)))
        (mulW c.b2 (delayed (hiddenDf2 c x) j 2)) := by
  rw [filterOutput, filterDelay_df2, filterStep, ← hiddenDf2_eq]

/-- `S1` before sample `j` of a pass in form TDF2 (rule R157). -/
def registerS1 (c : Coef) (x : Nat → W) (j : Nat) : W := (filterDelay .tdf2 c x j).first

/-- `S2` before sample `j` of a pass in form TDF2 (rule R157). -/
def registerS2 (c : Coef) (x : Nat → W) (j : Nat) : W := (filterDelay .tdf2 c x j).second

/-- In form TDF2 there are no delay registers but these two. -/
theorem filterDelay_tdf2 : filterDelay .tdf2 c x j = .tdf2 (registerS1 c x j) (registerS2 c x j) := by
  induction j with
  | zero => rfl
  | succ j ih =>
    rw [registerS1, registerS2, filterDelay, ih]
    rfl

/-- Rule R157, the output. -/
theorem filterOutput_tdf2 : filterOutput .tdf2 c x j = addW (mulW c.b0 (x j)) (registerS1 c x j) := by
  rw [filterOutput, filterDelay_tdf2, filterStep]

/-- Rule R157, `S1` after a sample. -/
theorem registerS1_succ :
    registerS1 c x (j + 1) =
      addW (subW (mulW c.b1 (x j)) (mulW c.a1 (filterOutput .tdf2 c x j))) (registerS2 c x j) := by
  rw [filterOutput_tdf2, registerS1, filterDelay, filterDelay_tdf2, filterStep, Delay.first]

/-- Rule R157, `S2` after a sample. -/
theorem registerS2_succ :
    registerS2 c x (j + 1) = subW (mulW c.b2 (x j)) (mulW c.a2 (filterOutput .tdf2 c x j)) := by
  rw [filterOutput_tdf2, registerS2, filterDelay, filterDelay_tdf2, filterStep, Delay.second]

end Forms

/-! ## What a completed `FILT` leaves -/

@[simp] theorem filtStage_work_buf (s : State) :
    (filtStage s).work.buf =
      Memory.writeList s.work.buf 0 (filterPass s.cfg.biquadForm s.work.coef (readEntries s.work)) := by
  simp [filtStage]

@[simp] theorem filtStage_work_coef (s : State) : (filtStage s).work.coef = s.work.coef := by
  simp [filtStage]

/-- A list written from index 0 holds the first entries and nothing else. -/
theorem bufHolds_writeList (m : Memory) (ys : List W) : BufHolds m (Memory.writeList m 0 ys) ys := by
  refine ⟨fun j hj => ?_, fun j hj => ?_⟩
  · simp [read_writeList, hj]
  · simp [read_writeList, hj.not_gt]

/-- The entries of the working copy, as a signal, are an input of the command (rules R38, R236). -/
theorem inputSignal_readEntry (s : State) : InputSignal s (readEntry (takeWork s)) := by
  intro j v _ hv
  simp [readEntry, takeWork, hv]

theorem inputOf_readEntries (s : State) : InputOf s (readEntries (takeWork s)) := by
  refine ⟨length_readEntries _, fun j v hj hv => ?_⟩
  rw [getElem?_readEntries _ hj, inputSignal_readEntry s j v hj hv]

/-- A buffer that holds the first `LEN` values of a signal. -/
theorem BufHolds.bufSignal {s t : State} {y : Nat → W}
    (h : BufHolds s.buf t.buf ((List.range s.len.toNat).map y)) : BufSignal s t y := by
  obtain ⟨hbelow, hbeyond⟩ := h
  rw [List.length_map, List.length_range] at hbelow hbeyond
  refine ⟨fun j hj => ?_, hbeyond⟩
  rw [hbelow j hj]
  simp [hj]

/-- The state in which an accepted `FILT` ends. -/
def filtDone (s : State) : State := complete (filtStage (accept .filt s))

/-- `FILT` has no argument check. -/
theorem exec_filt {s : State} (hb : s.status.busy = false) : exec .filt s = .next (filtDone s) :=
  (exec_eq_runCommand .filt s).trans (runCommand_accepted filtStage hb rfl)

section FiltDone

variable (s : State)

theorem filtDone_status : (filtDone s).status = statusDone := by
  simp [filtDone, statusComplete, statusBusy, statusDone]

theorem filtDone_phase : (filtDone s).seq.phase = .idle := by simp [filtDone]

theorem filtDone_coef : (filtDone s).coef = s.coef := by simp [filtDone, takeWork]

theorem filtDone_len : (filtDone s).len = s.len := by simp [filtDone, takeWork]

theorem untouched_filtDone : Untouched s (filtDone s) := by simp [Untouched, filtDone]

theorem filtDone_buf :
    (filtDone s).buf =
      Memory.writeList s.buf 0 (filterPass s.cfg.biquadForm s.coef (readEntries (takeWork s))) := by
  simp [filtDone, takeWork]

theorem bufHolds_filtDone :
    BufHolds s.buf (filtDone s).buf (filterPass s.cfg.biquadForm s.coef (readEntries (takeWork s))) := by
  rw [filtDone_buf]
  exact bufHolds_writeList _ _

/-- The buffer after `FILT` is the output signal of the pass over the entries found. -/
theorem bufSignal_filtDone {form : BiquadForm} (hform : s.cfg.biquadForm = form) :
    BufSignal s (filtDone s) (filterOutput form s.coef (readEntry (takeWork s))) := by
  have hbuf := bufHolds_filtDone s
  rw [hform, readEntries, filterPass_range] at hbuf
  exact hbuf.bufSignal

end FiltDone

/-! ## The obligations on `FILT` -/

/-- Settles O29: an idle `FILT` is always accepted, and writes the pass over the entries it reads. -/
theorem filtReplacesTheBufferByOnePass : Obligations.FiltReplacesTheBufferByOnePass := by
  unfold Obligations.FiltReplacesTheBufferByOnePass
  intro s hb
  exact ⟨filtDone s, readEntries (takeWork s), exec_filt hb, filtDone_status s, filtDone_phase s, inputOf_readEntries s,
    bufHolds_filtDone s, filtDone_coef s, filtDone_len s, untouched_filtDone s⟩

/-- Settles O30: the registers of form DF1 are the past samples, so the step is the recurrence. -/
theorem filtDf1Recurrence : Obligations.FiltDf1Recurrence := by
  unfold Obligations.FiltDf1Recurrence
  intro s hb hform
  exact ⟨filtDone s, _, _, exec_filt hb, inputSignal_readEntry s, bufSignal_filtDone s hform,
    fun j _ => filterOutput_df1 _ _ j⟩

/-- Settles O31: the hidden signal is what each sample leaves in `W1`. -/
theorem filtDf2Recurrence : Obligations.FiltDf2Recurrence := by
  unfold Obligations.FiltDf2Recurrence
  intro s hb hform
  exact ⟨filtDone s, _, _, hiddenDf2 s.coef (readEntry (takeWork s)), exec_filt hb, inputSignal_readEntry s,
    bufSignal_filtDone s hform, fun j _ => ⟨hiddenDf2_eq _ _ j, filterOutput_df2 _ _ j⟩⟩

/-- Settles O32: the hidden signals are the two registers before each sample. -/
theorem filtTdf2Recurrence : Obligations.FiltTdf2Recurrence := by
  unfold Obligations.FiltTdf2Recurrence
  intro s hb hform
  exact ⟨filtDone s, _, _, registerS1 s.coef (readEntry (takeWork s)), registerS2 s.coef (readEntry (takeWork s)),
    exec_filt hb, inputSignal_readEntry s, bufSignal_filtDone s hform, rfl, rfl,
    fun j _ => ⟨filterOutput_tdf2 _ _ j, registerS1_succ _ _ j, registerS2_succ _ _ j⟩⟩

end Sys2Proof.Machine
end

section
/-! PROOFS. What follows for every pass (43_biquad_filter_df2.md rules R154, R158, R159): `A0` has no effect, and in form DF1 a
NaN stays in the recurrence and zero coefficients give zeros. -/

namespace Sys2Proof.Machine

/-! ## `A0` is read nowhere (rule R154) -/

section WithoutA0

variable (c : Coef) (v : W)

theorem filterStep_a0 (d : Delay) (x : W) : filterStep { c with a0 := v } d x = filterStep c d x := by
  cases d <;> rfl

theorem filterList_a0 (d : Delay) (xs : List W) : filterList { c with a0 := v } d xs = filterList c d xs := by
  induction xs generalizing d with
  | nil => rfl
  | cons x xs ih => rw [filterList_cons, filterList_cons, filterStep_a0, ih]

end WithoutA0

/-- Settles O43: no step of the pass reads `A0`. -/
theorem coefA0HasNoEffect : Obligations.CoefA0HasNoEffect := by
  unfold Obligations.CoefA0HasNoEffect
  intro form c v xs
  rw [filterPass, filterList_a0, filterPass]

/-! ## A NaN stays (rule R158) -/

/-- A NaN operand gives a NaN (rule R12). -/
theorem isNaN_of_operand {a b : W} (h : isNaN a = true ∨ isNaN b = true) :
    isNaN (addW a b) = true ∧ isNaN (subW a b) = true ∧ isNaN (mulW a b) = true ∧ isNaN (divW a b) = true := by
  obtain ⟨-, -, -, hnan, -⟩ := arithmeticRoundsOnceWithSpecialCases
  exact hnan a b h

theorem isNaN_subW {a b : W} (h : isNaN a = true ∨ isNaN b = true) : isNaN (subW a b) = true := by
  obtain ⟨-, hsub, -, -⟩ := isNaN_of_operand h
  exact hsub

theorem isNaN_mulW {a b : W} (h : isNaN a = true ∨ isNaN b = true) : isNaN (mulW a b) = true := by
  obtain ⟨-, -, hmul, -⟩ := isNaN_of_operand h
  exact hmul

/-- A NaN output makes the product with `A1`, and so the next output, a NaN. -/
theorem isNaN_filterOutput_succ {c : Coef} {x : Nat → W} {j : Nat} (h : isNaN (filterOutput .df1 c x j) = true) :
    isNaN (filterOutput .df1 c x (j + 1)) = true := by
  rw [filterOutput_df1 c x (j + 1), delayed_succ_succ (filterOutput .df1 c x), delayed_by_zero]
  exact isNaN_subW (.inl (isNaN_subW (.inr (isNaN_mulW (.inr h)))))

theorem isNaN_filterOutput_of_le {c : Coef} {x : Nat → W} {i j : Nat} (hij : i ≤ j)
    (h : isNaN (filterOutput .df1 c x i) = true) : isNaN (filterOutput .df1 c x j) = true := by
  induction j, hij using Nat.le_induction with
  | base => exact h
  | succ j _ ih => exact isNaN_filterOutput_succ ih

/-- Settles O44: both outputs are values of the output signal, in which a NaN stays. -/
theorem naNFillsTheRestOfThePass : Obligations.NaNFillsTheRestOfThePass := by
  unfold Obligations.NaNFillsTheRestOfThePass
  intro c xs i j y z hy hnan hij hz
  rw [eq_filterOutput_of_getElem? hy] at hnan
  rw [eq_filterOutput_of_getElem? hz]
  exact isNaN_filterOutput_of_le hij hnan

/-! ## Zero coefficients (rule R159) -/

/-- A zero of either sign. -/
def IsZero (v : W) : Prop := ∃ neg, unpack v = .fin neg 0

/-- A finite number. -/
def IsFinite (v : W) : Prop := ∃ neg m, unpack v = .fin neg m

theorem isZero_zero : IsZero W.zero := ⟨false, unpack_zero⟩

theorem IsZero.isFinite {v : W} (h : IsZero v) : IsFinite v := h.imp fun _ hv => ⟨0, hv⟩

theorem isZero_addNum (p q : Bool) : IsZero (pack (addNum (.fin p 0) (.fin q 0))) := by
  by_cases h : p = q
  · exact ⟨p, by rw [addNum_fin_same_sign h, fl_zero, unpack_pack_zero]⟩
  · exact ⟨false, by rw [addNum_fin_cancel h rfl, unpack_pack_zero]⟩

section Zeros

variable {a b : W} (ha : IsZero a)
include ha

theorem IsZero.addW (hb : IsZero b) : IsZero (addW a b) := by
  obtain ⟨p, hp⟩ := ha
  obtain ⟨q, hq⟩ := hb
  rw [addW_eq hp hq]
  exact isZero_addNum p q

theorem IsZero.subW (hb : IsZero b) : IsZero (subW a b) := by
  obtain ⟨p, hp⟩ := ha
  obtain ⟨q, hq⟩ := hb
  rw [subW_eq hp hq]
  exact isZero_addNum p (!q)

theorem IsZero.mulW (hb : IsFinite b) : IsZero (mulW a b) := by
  obtain ⟨p, hp⟩ := ha
  obtain ⟨q, m, hq⟩ := hb
  exact ⟨p ^^ q, by rw [mulW_eq hp hq, mulNum, Nat.zero_mul, fl_zero, unpack_pack_zero]⟩

end Zeros

/-- With zero coefficients every product of the recurrence is a zero, as long as the past outputs are finite. -/
theorem isZero_filterOutput {x : Nat → W} (hx : ∀ j, IsFinite (x j)) (j : Nat) :
    IsZero (filterOutput .df1 Coef.zero x j) := by
  induction j using Nat.strongRecOn with
  | ind j ih =>
    have hinput : ∀ d, IsZero (mulW W.zero (delayed x j d)) := fun d =>
      isZero_zero.mulW (delayed_of_forall x j d isZero_zero.isFinite fun k _ => hx k)
    have houtput : ∀ d, IsZero (mulW W.zero (delayed (filterOutput .df1 Coef.zero x) j (d + 1))) := fun d =>
      isZero_zero.mulW (delayed_of_forall _ j _ isZero_zero.isFinite fun k hk => (ih k (by omega)).isFinite)
    rw [filterOutput_df1]
    exact ((((isZero_zero.mulW (hx j)).addW (hinput 1)).addW (hinput 2)).subW (houtput 0)).subW (houtput 1)

theorem isFinite_listSignal {xs : List W} (h : ∀ x ∈ xs, IsFinite x) (j : Nat) : IsFinite (listSignal xs j) := by
  unfold listSignal
  cases hj : xs[j]? with
  | none => exact isZero_zero.isFinite
  | some x => exact h x (List.mem_of_getElem? hj)

/-- Settles O45: `A0` aside the coefficients are `Coef.zero`, and every value of the output signal is a zero. -/
theorem zeroCoefficientsGiveZeros : Obligations.ZeroCoefficientsGiveZeros := by
  unfold Obligations.ZeroCoefficientsGiveZeros
  intro v xs hxs y hy
  rw [coefA0HasNoEffect, filterPass_eq_map] at hy
  obtain ⟨j, -, rfl⟩ := List.mem_map.mp hy
  exact isZero_filterOutput (isFinite_listSignal hxs) j

end Sys2Proof.Machine
end

section
/-! PROOFS. The resonator stage (44_resonator_stage.md rules R170 to R172): what the stage makes of the working copy, what a
completed `RES` leaves, and `RES` against `DSGN_RES` then `FILT`. -/

namespace Sys2Proof.Machine

/-! ## What the stage makes of the working copy -/

/-- A command that replaces the coefficients still reads the same entries. -/
@[simp] theorem readEntries_with_coef (w : Work) (c : Coef) : readEntries { w with coef := c } = readEntries w := rfl

@[simp] theorem designResStage_work (s : State) :
    (designResStage s).work = { s.work with coef := resCoef s.cfg s.par } := by
  simp [designResStage]

@[simp] theorem resStage_work_coef (s : State) : (resStage s).work.coef = resCoef s.cfg s.par := by
  simp [resStage]

/-- The pass runs with the set just designed, over the entries of before the design. -/
@[simp] theorem resStage_work_buf (s : State) :
    (resStage s).work.buf =
      Memory.writeList s.work.buf 0 (filterPass s.cfg.biquadForm (resCoef s.cfg s.par) (readEntries s.work)) := by
  simp [resStage]

/-! ## What a completed `RES` leaves -/

/-- The state in which an accepted `RES` ends. -/
def resDone (s : State) : State := complete (resStage (accept .res s))

/-- `RES` has no argument check. -/
theorem exec_res {s : State} (hb : s.status.busy = false) : exec .res s = .next (resDone s) :=
  (exec_eq_runCommand .res s).trans (runCommand_accepted resStage hb rfl)

section ResDone

variable (s : State)

theorem resDone_status : (resDone s).status = statusDone := by
  simp [resDone, statusComplete, statusBusy, statusDone]

theorem resDone_phase : (resDone s).seq.phase = .idle := by simp [resDone]

theorem resDone_coef : (resDone s).coef = resCoef s.cfg s.par := by simp [resDone]

theorem resDone_len : (resDone s).len = s.len := by simp [resDone, takeWork]

theorem untouched_resDone : Untouched s (resDone s) := by simp [Untouched, resDone]

theorem resDone_buf :
    (resDone s).buf =
      Memory.writeList s.buf 0
        (filterPass s.cfg.biquadForm (resCoef s.cfg s.par) (readEntries (takeWork s))) := by
  simp [resDone, takeWork]

theorem bufHolds_resDone :
    BufHolds s.buf (resDone s).buf
      (filterPass s.cfg.biquadForm (resDone s).coef (readEntries (takeWork s))) := by
  rw [resDone_buf, resDone_coef]
  exact bufHolds_writeList _ _

end ResDone

/-- Settles O35: an idle `RES` is always accepted, and writes the pass with the set it leaves in `COEF`. -/
theorem resDesignsAndFilters : Obligations.ResDesignsAndFilters := by
  unfold Obligations.ResDesignsAndFilters
  intro s hb
  exact ⟨resDone s, readEntries (takeWork s), exec_res hb, resDone_status s, resDone_phase s, inputOf_readEntries s,
    resDone_coef s, bufHolds_resDone s, resDone_len s, untouched_resDone s⟩

/-! ## `RES` against `DSGN_RES` then `FILT` (rule R171) -/

/-- A design reads no entry and so draws no free value (rule R38): the next command takes the same working copy, with the
new set in it. -/
theorem takeWork_designDone {i : Instr} (c : Coef) {s : State} (hi : entriesRead s.len i = 0) :
    takeWork (designDone i c s) = { takeWork s with coef := c } := by
  simp [takeWork, designDone, hi]

/-- A `FILT` after a design is one pass with the set designed, over the entries of before the design. -/
theorem filtDone_designDone_buf {i : Instr} (c : Coef) {s : State} (hi : entriesRead s.len i = 0) :
    (filtDone (designDone i c s)).buf =
      Memory.writeList s.buf 0 (filterPass s.cfg.biquadForm c (readEntries (takeWork s))) := by
  have hcfg : (designDone i c s).cfg = s.cfg := by simp [designDone]
  rw [filtDone_buf, takeWork_designDone c hi, readEntries_with_coef, hcfg, designDone_coef, designDone_buf]

theorem designDone_busy (i : Instr) (c : Coef) (s : State) : (designDone i c s).status.busy = false := by
  rw [designDone_status, statusDone]

/-- Settles O38: the design leaves the buffer and the free values alone, so the `FILT` after it is the pass of `RES`. -/
theorem resEqualsDesignThenFilter : Obligations.ResEqualsDesignThenFilter := by
  unfold Obligations.ResEqualsDesignThenFilter
  intro s hb
  refine ⟨resDone s, designDone .dsgnRes (resCoef s.cfg s.par) s, filtDone (designDone .dsgnRes (resCoef s.cfg s.par) s),
    exec_res hb, exec_dsgnRes hb, exec_filt (designDone_busy _ _ s), ?coef, ?buf, ?len, ?designed,
    designDone_buf _ _ s, designDone_status _ _ s, filtDone_status _⟩
  case coef => rw [filtDone_coef, designDone_coef, resDone_coef]
  case buf => rw [filtDone_designDone_buf _ rfl, resDone_buf]
  case len => rw [filtDone_len, designDone_len, resDone_len]
  case designed => rw [designDone_coef, resDone_coef]

end Sys2Proof.Machine
end

section
/-! PROOFS. The narrowing stage and `NARROW` (45_cascaded_biquad_chain.md rules R176, R177): what a completed `NARROW`
leaves, and why a second one changes nothing in the buffer. -/

namespace Sys2Proof.Machine

/-! ## Narrowing a narrowed value (rule R177) -/

/-- A sample survives widening and narrowing, except that every NaN pattern widens to the one NaN, which stays. -/
theorem widen_narrow_widen (mode : NarrowMode) (x : S) : widen (narrow mode (widen x)) = widen x := by
  obtain ⟨hnumber, -⟩ := widenThenNarrowIsIdentity
  by_cases hx : unpackSample x = .nan
  · have hwiden : widen x = .nan := by rw [widen, hx, pack_nan]
    rw [hwiden, narrow_nan mode unpack_nan, widen_nan]
  · cases x with
    | nan => exact absurd unpackSample_nan hx
    | pat b => rw [hnumber mode b hx]

@[simp] theorem narrowStep_narrowStep (mode : NarrowMode) (v : W) :
    narrowStep mode (narrowStep mode v) = narrowStep mode v :=
  widen_narrow_widen mode (narrow mode v)

/-! ## Entries already written -/

/-- A write of the value an entry holds changes nothing, in any memory list. -/
theorem write_of_read {m : Memory} {i : Nat} {v : W} (h : Memory.read m i = some v) : Memory.write m i v = m := by
  induction m with
  | nil => simp at h
  | cons e m ih =>
    obtain ⟨j, u⟩ := e
    rcases Nat.lt_trichotomy i j with hij | rfl | hij
    · simp [Memory.read, hij, hij.ne] at h
    · have huv : u = v := by simpa [Memory.read] using h
      simp [Memory.write, huv]
    · have hrest : Memory.read m i = some v := by simpa [Memory.read, hij.ne', hij.not_gt] using h
      simp [Memory.write, hij.ne', hij.not_gt, ih hrest]

theorem writeList_of_read {m : Memory} {i : Nat} {vs : List W}
    (h : ∀ j, j < vs.length → Memory.read m (i + j) = vs[j]?) : Memory.writeList m i vs = m := by
  induction vs generalizing i with
  | nil => rfl
  | cons v vs ih =>
    have hhead : Memory.read m i = some v := h 0 (by simp)
    rw [Memory.writeList, write_of_read hhead]
    refine ih fun j hj => ?_
    have htail := h (j + 1) (by simpa using hj)
    rwa [List.getElem?_cons_succ, Nat.add_comm j 1, ← Nat.add_assoc] at htail

/-- Writing again what a buffer holds changes nothing. -/
theorem BufHolds.writeList_eq {m m' : Memory} {ys : List W} (h : BufHolds m m' ys) : Memory.writeList m' 0 ys = m' := by
  obtain ⟨hbelow, -⟩ := h
  exact writeList_of_read fun j hj => by rw [Nat.zero_add, hbelow j hj]

/-- A command that finds a list written over its first `LEN` entries reads that list. -/
theorem BufHolds.readEntries_eq {m : Memory} {w : Work} {ys : List W} (h : BufHolds m w.buf ys)
    (hlen : ys.length = w.len.toNat) : readEntries w = ys := by
  obtain ⟨hbelow, -⟩ := h
  refine List.ext_getElem (by simp [hlen]) fun j _ hj => ?_
  have hread : Memory.read w.buf j = some ys[j] := by rw [hbelow j hj, List.getElem?_eq_getElem hj]
  simp [readEntries, readEntry, hread]

/-! ## What a completed `NARROW` leaves -/

@[simp] theorem narrowStage_work_buf (s : State) :
    (narrowStage s).work.buf =
      Memory.writeList s.work.buf 0 ((readEntries s.work).map (narrowStep s.cfg.narrowMode)) := by
  simp [narrowStage]

@[simp] theorem narrowStage_work_coef (s : State) : (narrowStage s).work.coef = s.work.coef := by
  simp [narrowStage]

/-- The state in which an accepted `NARROW` ends. -/
def narrowDone (s : State) : State := complete (narrowStage (accept .narrow s))

/-- `NARROW` has no argument check. -/
theorem exec_narrow {s : State} (hb : s.status.busy = false) : exec .narrow s = .next (narrowDone s) :=
  (exec_eq_runCommand .narrow s).trans (runCommand_accepted narrowStage hb rfl)

section NarrowDone

variable (s : State)

theorem narrowDone_status : (narrowDone s).status = statusDone := by
  simp [narrowDone, statusComplete, statusBusy, statusDone]

theorem narrowDone_busy : (narrowDone s).status.busy = false := by
  rw [narrowDone_status, statusDone]

theorem narrowDone_phase : (narrowDone s).seq.phase = .idle := by simp [narrowDone]

theorem narrowDone_coef : (narrowDone s).coef = s.coef := by simp [narrowDone, takeWork]

theorem narrowDone_len : (narrowDone s).len = s.len := by simp [narrowDone, takeWork]

theorem narrowDone_delay : (narrowDone s).delay = s.delay := by simp [narrowDone, firstPhase]

theorem narrowDone_cfg : (narrowDone s).cfg = s.cfg := by simp [narrowDone]

theorem untouched_narrowDone : Untouched s (narrowDone s) := by simp [Untouched, narrowDone]

theorem narrowDone_buf :
    (narrowDone s).buf =
      Memory.writeList s.buf 0 ((readEntries (takeWork s)).map (narrowStep s.cfg.narrowMode)) := by
  simp [narrowDone, takeWork]

theorem bufHolds_narrowDone :
    BufHolds s.buf (narrowDone s).buf ((readEntries (takeWork s)).map (narrowStep s.cfg.narrowMode)) := by
  rw [narrowDone_buf]
  exact bufHolds_writeList _ _

/-- The buffer after `NARROW` is the signal found, narrowed sample by sample. -/
theorem bufSignal_narrowDone :
    BufSignal s (narrowDone s) fun j => widen (narrow s.cfg.narrowMode (readEntry (takeWork s) j)) := by
  have hbuf := bufHolds_narrowDone s
  rw [readEntries, List.map_map] at hbuf
  exact hbuf.bufSignal

/-- A command after `NARROW` reads the narrowed entries, whatever values it would have drawn for unwritten ones. -/
theorem readEntries_narrowDone :
    readEntries (takeWork (narrowDone s)) = (readEntries (takeWork s)).map (narrowStep s.cfg.narrowMode) := by
  have hlen : (takeWork (narrowDone s)).len = s.len := narrowDone_len s
  refine BufHolds.readEntries_eq (w := takeWork (narrowDone s)) (bufHolds_narrowDone s) ?_
  rw [hlen, List.length_map, length_readEntries, takeWork]

/-- The second `NARROW` writes over each entry the value it holds. -/
theorem narrowDone_narrowDone_buf : (narrowDone (narrowDone s)).buf = (narrowDone s).buf := by
  rw [narrowDone_buf (narrowDone s), readEntries_narrowDone, narrowDone_cfg, List.map_map]
  have hmap : narrowStep s.cfg.narrowMode ∘ narrowStep s.cfg.narrowMode = narrowStep s.cfg.narrowMode :=
    funext (narrowStep_narrowStep s.cfg.narrowMode)
  rw [hmap]
  exact (bufHolds_narrowDone s).writeList_eq

end NarrowDone

/-! ## The obligations on `NARROW` -/

/-- Settles O33: an idle `NARROW` is always accepted, and writes the narrowed entries over those it reads. -/
theorem narrowNarrowsEveryEntry : Obligations.NarrowNarrowsEveryEntry := by
  unfold Obligations.NarrowNarrowsEveryEntry
  intro s hb
  exact ⟨narrowDone s, readEntry (takeWork s), exec_narrow hb, narrowDone_status s, narrowDone_phase s,
    inputSignal_readEntry s, bufSignal_narrowDone s, narrowDone_coef s, narrowDone_len s, narrowDone_delay s,
    untouched_narrowDone s⟩

/-- Settles O34: every entry the second `NARROW` reads is narrowed already, and narrowing is idempotent. -/
theorem narrowIsIdempotent : Obligations.NarrowIsIdempotent := by
  unfold Obligations.NarrowIsIdempotent
  intro s hb
  exact ⟨narrowDone s, narrowDone (narrowDone s), exec_narrow hb, exec_narrow (narrowDone_busy s),
    narrowDone_narrowDone_buf s, narrowDone_len _⟩

end Sys2Proof.Machine
end

section
/-! PROOFS. The chain of sections (45_cascaded_biquad_chain.md rules R175, R176, R179): the pass-by-pass chain against the
sample-by-sample cascade, and what a completed `EQ` leaves (46_parametric_eq_10band.md rules R186, R188). -/

namespace Sys2Proof.Machine

/-! ## The chain against the cascade (rule R179) -/

@[simp] theorem length_sectionPass (form : BiquadForm) (mode : NarrowMode) (c : Coef) (xs : List W) :
    (sectionPass form mode c xs).length = xs.length := by
  simp [sectionPass]

@[simp] theorem length_chainPass (form : BiquadForm) (mode : NarrowMode) (cs : List Coef) (xs : List W) :
    (chainPass form mode cs xs).length = xs.length := by
  induction cs generalizing xs with
  | nil => rfl
  | cons c cs ih => rw [chainPass, ih, length_sectionPass]

/-- A cascade of no section passes every sample on. -/
theorem cascadeRun_nil (mode : NarrowMode) (xs : List W) : cascadeRun mode [] xs = xs := by
  induction xs with
  | nil => rfl
  | cons x xs ih => simp [cascadeRun, cascadeStep, ih]

/-- The first section of a cascade can run over all samples before the others start: it reads only its own delay
registers and the samples, whatever registers the run starts from. -/
theorem cascadeRun_cons (mode : NarrowMode) (c : Coef) (d : Delay) (secs : List (Coef × Delay)) (xs : List W) :
    cascadeRun mode ((c, d) :: secs) xs = cascadeRun mode secs ((filterList c d xs).1.map (narrowStep mode)) := by
  induction xs generalizing d secs with
  | nil => cases secs <;> rfl
  | cons x xs ih => simp [cascadeRun, cascadeStep, filterList_cons, ih]

theorem cascade_cons (form : BiquadForm) (mode : NarrowMode) (c : Coef) (cs : List Coef) (xs : List W) :
    cascade form mode (c :: cs) xs = cascade form mode cs (sectionPass form mode c xs) := by
  rw [cascade, List.map_cons, cascadeRun_cons, cascade, sectionPass, filterPass]

/-- Settles O42, by induction on the sections: each can be peeled off the cascade as a whole pass. -/
theorem chainEqualsSampleCascade : Obligations.ChainEqualsSampleCascade := by
  unfold Obligations.ChainEqualsSampleCascade
  intro form mode cs xs
  induction cs generalizing xs with
  | nil => exact (cascadeRun_nil mode xs).symm
  | cons c cs ih => rw [chainPass, ih, cascade_cons]

/-! ## What a band makes of the working copy (rules R175, R176) -/

/-- Two lists of one length written one after the other leave the second. -/
theorem BufHolds.trans {m m' m'' : Memory} {ys zs : List W} (h : BufHolds m m' ys) (h' : BufHolds m' m'' zs)
    (hlen : ys.length = zs.length) : BufHolds m m'' zs := by
  obtain ⟨-, hbeyond⟩ := h
  obtain ⟨hbelow', hbeyond'⟩ := h'
  exact ⟨hbelow', fun j hj => (hbeyond' j hj).trans (hbeyond j (hlen ▸ hj))⟩

theorem bufHolds_filtStage (s : State) :
    BufHolds s.work.buf (filtStage s).work.buf
      (filterPass s.cfg.biquadForm s.work.coef (readEntries s.work)) := by
  rw [filtStage_work_buf]
  exact bufHolds_writeList _ _

/-- The narrowing of a band reads what the pass of the band has written. -/
theorem readEntries_filtStage (s : State) :
    readEntries (filtStage s).work = filterPass s.cfg.biquadForm s.work.coef (readEntries s.work) :=
  (bufHolds_filtStage s).readEntries_eq (by simp)

theorem bufHolds_narrowStage (s : State) :
    BufHolds s.work.buf (narrowStage s).work.buf ((readEntries s.work).map (narrowStep s.cfg.narrowMode)) := by
  rw [narrowStage_work_buf]
  exact bufHolds_writeList _ _

/-- A pass and its narrowing are one section with the coefficients in the working copy. -/
theorem bufHolds_narrowStage_filtStage (s : State) :
    BufHolds s.work.buf (narrowStage (filtStage s)).work.buf
      (sectionPass s.cfg.biquadForm s.cfg.narrowMode s.work.coef (readEntries s.work)) := by
  have hnarrow := bufHolds_narrowStage (filtStage s)
  rw [readEntries_filtStage, filtStage_cfg] at hnarrow
  exact (bufHolds_filtStage s).trans hnarrow (by simp)

@[simp] theorem designBandStage_work (k : BitVec 4) (s : State) :
    (designBandStage k s).work = { s.work with coef := bandCoef s.par k } := by
  simp [designBandStage]

@[simp] theorem bandStage_work_coef (k : BitVec 4) (s : State) : (bandStage k s).work.coef = bandCoef s.par k := by
  simp [bandStage]

section Bands

variable (k : BitVec 4) (ks : List (BitVec 4)) (s : State)

/-- A band is one section with the set it has designed. -/
theorem bufHolds_bandStage :
    BufHolds s.work.buf (bandStage k s).work.buf
      (sectionPass s.cfg.biquadForm s.cfg.narrowMode (bandCoef s.par k) (readEntries s.work)) := by
  have hsection := bufHolds_narrowStage_filtStage (designBandStage k (setBand k s))
  rw [designBandStage_work, designBandStage_cfg] at hsection
  exact hsection

/-- The next band reads what this one has written. -/
theorem readEntries_bandStage :
    readEntries (bandStage k s).work =
      sectionPass s.cfg.biquadForm s.cfg.narrowMode (bandCoef s.par k) (readEntries s.work) :=
  (bufHolds_bandStage k s).readEntries_eq (by simp)

/-- Bands one after the other, at least one, leave the chain of their sections. -/
theorem bufHolds_foldl_bandStage :
    BufHolds s.work.buf ((k :: ks).foldl (fun t j => bandStage j t) s).work.buf
      (chainPass s.cfg.biquadForm s.cfg.narrowMode ((k :: ks).map (bandCoef s.par)) (readEntries s.work)) := by
  induction ks generalizing k s with
  | nil => exact bufHolds_bandStage k s
  | cons j js ih =>
    have hrest := ih j (bandStage k s)
    rw [bandStage_cfg, bandStage_par, readEntries_bandStage] at hrest
    rw [List.foldl_cons, List.map_cons, chainPass]
    exact (bufHolds_bandStage k s).trans hrest (by simp)

end Bands

/-! ## What a completed `EQ` leaves -/

@[simp] theorem eqStage_work_coef (s : State) : (eqStage s).work.coef = bandCoef s.par 9#4 := by
  simp [eqStage, bandOrder]

theorem bufHolds_eqStage (s : State) :
    BufHolds s.work.buf (eqStage s).work.buf
      (chainPass s.cfg.biquadForm s.cfg.narrowMode (bandOrder.map (bandCoef s.par)) (readEntries s.work)) := by
  rw [eqStage, bandOrder]
  exact bufHolds_foldl_bandStage _ _ s

/-- The state in which an accepted `EQ` ends. -/
def eqDone (s : State) : State := complete (eqStage (accept .equalize s))

theorem gainCheck_eq_none {p : Params} (h : 10 ≤ gainCnt p) : gainCheck p = none := if_neg h.not_gt

/-- The gain count is the only check of `EQ` (rules R187, R209). -/
theorem exec_equalize {s : State} (hb : s.status.busy = false) (hgains : 10 ≤ gainCnt s.par) :
    exec .equalize s = .next (eqDone s) :=
  (exec_eq_runCommand .equalize s).trans (runCommand_accepted eqStage hb (gainCheck_eq_none hgains))

section EqDone

variable (s : State)

theorem eqDone_status : (eqDone s).status = statusDone := by
  simp [eqDone, statusComplete, statusBusy, statusDone]

theorem eqDone_phase : (eqDone s).seq.phase = .idle := by simp [eqDone]

theorem eqDone_coef : (eqDone s).coef = bandCoef s.par 9#4 := by simp [eqDone]

theorem eqDone_len : (eqDone s).len = s.len := by simp [eqDone, takeWork]

theorem untouched_eqDone : Untouched s (eqDone s) := by simp [Untouched, eqDone]

theorem bufHolds_eqDone :
    BufHolds s.buf (eqDone s).buf
      (chainPass s.cfg.biquadForm s.cfg.narrowMode (bandOrder.map (bandCoef s.par)) (readEntries (takeWork s))) :=
  bufHolds_eqStage (accept .equalize s)

end EqDone

/-- Settles O36: with ten gains an idle `EQ` is accepted, and the ten bands in order are the chain of their sections. -/
theorem eqRunsTheTenBands : Obligations.EqRunsTheTenBands := by
  unfold Obligations.EqRunsTheTenBands
  intro s hb hgains
  exact ⟨eqDone s, readEntries (takeWork s), exec_equalize hb hgains, eqDone_status s, eqDone_phase s,
    inputOf_readEntries s, bufHolds_eqDone s, eqDone_coef s, eqDone_len s, untouched_eqDone s⟩

end Sys2Proof.Machine
end

section
/-! PROOFS. The equalizer against its parts (46_parametric_eq_10band.md rules R187, R190): the rejection for fewer than ten
gains, and `EQ` against the thirty commands, by a relation between the running `EQ` and the host's view that every band
keeps. -/

namespace Sys2Proof.Machine

/-! ## The gain count (rule R187) -/

theorem exec_rejected {i : Instr} {s : State} {e : ErrCode} (hb : s.status.busy = false)
    (hc : argCheck s.cfg s.par i = some e) : exec i s = .next (reject e s) :=
  (exec_eq_runCommand i s).trans (runCommand_rejected (effectOf i) hb hc)

theorem gainCheck_eq_gainCount {p : Params} (h : gainCnt p < 10) : gainCheck p = some .gainCount := if_pos h

/-- The gain count is the last check of `SYNTH`, made only if the equalizer is enabled (rule R209). -/
theorem argCheck_synth_of_eqEn {cfg : Config} {p : Params} (hg : genCheck cfg p = none) (he : eqEn p = true) :
    argCheck cfg p .synth = gainCheck p := by
  rw [argCheck, hg]
  exact if_pos he

/-- Settles O23: `gainCheck` fails, and no earlier check of the two commands does. -/
theorem fewerThanTenGainsAreRejected : Obligations.FewerThanTenGainsAreRejected := by
  unfold Obligations.FewerThanTenGainsAreRejected
  intro s hb hgains
  have hcheck : gainCheck s.par = some .gainCount := gainCheck_eq_gainCount hgains
  exact ⟨exec_rejected (i := .equalize) hb hcheck,
    fun heq hgen => exec_rejected hb ((argCheck_synth_of_eqEn hgen heq).trans hcheck)⟩

/-! ## The three commands of a band (rule R190) -/

theorem execAll_cons {i : Instr} {s t : State} (is : List Instr) (h : exec i s = .next t) :
    execAll (i :: is) s = execAll is t := by
  rw [execAll, h]

/-- The commands that stand for band `k` (rule R190). -/
def bandCommands (k : BitVec 4) : List Instr := [.dsgnEq k, .filt, .narrow]

/-- The state in which the three commands of band `k` end. -/
def bandDone (k : BitVec 4) (s : State) : State :=
  narrowDone (filtDone (designDone (.dsgnEq k) (bandCoef s.par k) s))

theorem filtDone_busy (s : State) : (filtDone s).status.busy = false := by
  rw [filtDone_status, statusDone]

theorem execAll_bandCommands {k : BitVec 4} {s : State} (is : List Instr) (hk : k.toNat < 10)
    (hb : s.status.busy = false) : execAll (bandCommands k ++ is) s = execAll is (bandDone k s) := by
  have hdesign := execAll_cons (.filt :: .narrow :: is) (exec_dsgnEq hb hk)
  have hfilt := execAll_cons (.narrow :: is) (exec_filt (designDone_busy (.dsgnEq k) (bandCoef s.par k) s))
  have hnarrow := execAll_cons is (exec_narrow (filtDone_busy (designDone (.dsgnEq k) (bandCoef s.par k) s)))
  exact hdesign.trans (hfilt.trans hnarrow)

/-- A command after `FILT` reads what the pass has written, whatever values it would have drawn for unwritten entries. -/
theorem readEntries_filtDone (s : State) :
    readEntries (takeWork (filtDone s)) = filterPass s.cfg.biquadForm s.coef (readEntries (takeWork s)) := by
  refine BufHolds.readEntries_eq (w := takeWork (filtDone s)) (bufHolds_filtDone s) ?_
  simp [takeWork, filtDone_len]

/-- The buffer `m` after a pass with the set `c` over the entries `xs` read from it, and the narrowing of that pass. -/
def sectionBuf (cfg : Config) (c : Coef) (m : Memory) (xs : List W) : Memory :=
  Memory.writeList (Memory.writeList m 0 (filterPass cfg.biquadForm c xs)) 0
    (sectionPass cfg.biquadForm cfg.narrowMode c xs)

section BandDone

variable (k : BitVec 4) (s : State)

theorem readEntries_filtDone_designDone (c : Coef) :
    readEntries (takeWork (filtDone (designDone (.dsgnEq k) c s))) =
      filterPass s.cfg.biquadForm c (readEntries (takeWork s)) := by
  have hcfg : (designDone (.dsgnEq k) c s).cfg = s.cfg := by simp [designDone]
  rw [readEntries_filtDone, takeWork_designDone c rfl, readEntries_with_coef, hcfg, designDone_coef]

theorem filtDone_designDone_cfg (i : Instr) (c : Coef) : (filtDone (designDone i c s)).cfg = s.cfg := by
  simp [filtDone, designDone]

theorem untouched_bandDone : Untouched s (bandDone k s) := by
  simp [Untouched, bandDone, narrowDone, filtDone, designDone]

theorem bandDone_busy : (bandDone k s).status.busy = false := narrowDone_busy _

theorem bandDone_coef : (bandDone k s).coef = bandCoef s.par k := by
  rw [bandDone, narrowDone_coef, filtDone_coef, designDone_coef]

theorem bandDone_len : (bandDone k s).len = s.len := by
  rw [bandDone, narrowDone_len, filtDone_len, designDone_len]

theorem bandDone_buf : (bandDone k s).buf = sectionBuf s.cfg (bandCoef s.par k) s.buf (readEntries (takeWork s)) := by
  rw [bandDone, narrowDone_buf, readEntries_filtDone_designDone, filtDone_designDone_cfg,
    filtDone_designDone_buf _ rfl, sectionBuf, sectionPass]

/-- The next command reads the section's output. -/
theorem readEntries_bandDone :
    readEntries (takeWork (bandDone k s)) =
      sectionPass s.cfg.biquadForm s.cfg.narrowMode (bandCoef s.par k) (readEntries (takeWork s)) := by
  rw [bandDone, readEntries_narrowDone, readEntries_filtDone_designDone, filtDone_designDone_cfg, sectionPass]

theorem bandStage_work_buf :
    (bandStage k s).work.buf = sectionBuf s.cfg (bandCoef s.par k) s.work.buf (readEntries s.work) := by
  rw [bandStage, narrowStage_work_buf, readEntries_filtStage, filtStage_work_buf]
  simp [sectionBuf, sectionPass]

end BandDone

/-! ## `EQ` against the thirty commands (rule R190) -/

/-- The host's view `c` between two commands shows what the running `EQ` has in its working copy in `s`. The free values
of unwritten entries start elsewhere in `c`, so that both read the same entries is a field of its own. -/
structure ShowsWork (s c : State) : Prop where
  idle : c.status.busy = false
  cfg : c.cfg = s.cfg
  par : c.par = s.par
  buf : c.buf = s.work.buf
  len : c.len = s.work.len
  coef : c.coef = s.work.coef
  reads : readEntries (takeWork c) = readEntries s.work

/-- An idle state shows the working copy that an accepted command takes of it (rule R236). -/
theorem showsWork_accept (i : Instr) {s : State} (hb : s.status.busy = false) : ShowsWork (accept i s) s where
  idle := hb
  cfg := by simp
  par := by simp
  buf := by simp [takeWork]
  len := by simp [takeWork]
  coef := by simp [takeWork]
  reads := by simp

theorem ShowsWork.band {s c : State} (h : ShowsWork s c) (k : BitVec 4) :
    ShowsWork (bandStage k s) (bandDone k c) := by
  obtain ⟨hcfg, hpar, -⟩ := untouched_bandDone k c
  constructor
  case idle => exact bandDone_busy k c
  case cfg => rw [hcfg, h.cfg, bandStage_cfg]
  case par => rw [hpar, h.par, bandStage_par]
  case buf => rw [bandDone_buf, bandStage_work_buf, h.cfg, h.par, h.buf, h.reads]
  case len => rw [bandDone_len, h.len, bandStage_work_len]
  case coef => rw [bandDone_coef, h.par, bandStage_work_coef]
  case reads => rw [readEntries_bandDone, readEntries_bandStage, h.cfg, h.par, h.reads]

/-- The commands of any bands, presented one after the other, end in a state that shows what the bands make of the
working copy. -/
theorem ShowsWork.bands {ks : List (BitVec 4)} (hks : ∀ k ∈ ks, k.toNat < 10) {s c : State} (h : ShowsWork s c) :
    ∃ u, execAll (ks.flatMap bandCommands) c = .next u ∧ ShowsWork (ks.foldl (fun t k => bandStage k t) s) u := by
  induction ks generalizing s c with
  | nil => exact ⟨c, rfl, h⟩
  | cons k ks ih =>
    obtain ⟨hk, hrest⟩ := List.forall_mem_cons.mp hks
    obtain ⟨u, hrun, hshows⟩ := ih hrest (h.band k)
    rw [List.flatMap_cons, execAll_bandCommands _ hk h.idle, List.foldl_cons]
    exact ⟨u, hrun, hshows⟩

theorem toNat_lt_of_mem_bandOrder : ∀ k ∈ bandOrder, k.toNat < 10 := by decide

/-- Settles O39: the thirty commands are those of the ten bands in order, and the completion of `EQ` publishes the working
copy they show. -/
theorem eqEqualsThirtyCommands : Obligations.EqEqualsThirtyCommands := by
  unfold Obligations.EqEqualsThirtyCommands
  intro s hb hgains
  obtain ⟨u, hrun, hshows⟩ := (showsWork_accept .equalize hb).bands toNat_lt_of_mem_bandOrder
  exact ⟨eqDone s, u, exec_equalize hb hgains, hrun, hshows.buf, hshows.len, hshows.coef⟩

end Sys2Proof.Machine
end

section
/-! PROOFS. A command word presented while idle (60_exceptions.md rules R205 to R213): illegal, rejected by the first check
that fails, or accepted. -/

namespace Sys2Proof.Machine

/-! ## A command word presented while idle -/

/-- An idle step whose event writes `CMD` presents the low 32 bits of the data (rules R22, R80). -/
theorem step_command {s : State} {t : Transaction} {overlap : Bool} {rest : List HostEvent}
    (hin : s.inputs = .access t overlap :: rest) (hw : t.we = true) (hspace : t.space = 0#2) (haddr : t.addr = 0#32)
    (hb : s.status.busy = false) :
    step s = presentWord (t.wdata.setWidth 32) overlap { s with inputs := rest } := by
  have hcmd : isCommand t = true := (isCommand_iff t).mpr ⟨hw, hspace, by rw [haddr]; rfl⟩
  rw [step_access hin, hostAccess_command (s := { s with inputs := rest }) overlap hb hcmd, commandWord]

theorem presentWord_illegal {c : BitVec 32} {e : DecodeError} (overlap : Bool) (s : State) (h : decode c = .error e) :
    presentWord c overlap s = .next (reject .illegalCmd s) := by
  rw [presentWord, h]

theorem startCommand_rejected {i : Instr} {s : State} {e : ErrCode} (hb : s.status.busy = false)
    (hc : argCheck s.cfg s.par i = some e) : startCommand i s = reject e s := by
  simp [startCommand, hb, hc]

theorem startCommand_accepted {i : Instr} {s : State} (hb : s.status.busy = false)
    (hc : argCheck s.cfg s.par i = none) : startCommand i s = accept i s := by
  simp [startCommand, hb, hc]

/-- A legal word that fails a check is rejected alike, whether its run would overlap the next event or not. -/
theorem presentWord_rejected {c : BitVec 32} {i : Instr} {s : State} {e : ErrCode} (overlap : Bool)
    (h : decode c = .ok i) (hb : s.status.busy = false) (hc : argCheck s.cfg s.par i = some e) :
    presentWord c overlap s = .next (reject e s) := by
  rw [presentWord, h]
  cases overlap with
  | true => exact congrArg _ (startCommand_rejected hb hc)
  | false => exact exec_rejected hb hc

theorem presentWord_started {c : BitVec 32} {i : Instr} {s : State} (h : decode c = .ok i)
    (hb : s.status.busy = false) (hc : argCheck s.cfg s.par i = none) :
    presentWord c true s = .next (accept i s) := by
  rw [presentWord, h]
  exact congrArg _ (startCommand_accepted hb hc)

/-- Settles O5: an illegal word and a failing check both end in `reject`. -/
theorem rejectionChangesOnlyStatus : Obligations.RejectionChangesOnlyStatus := by
  unfold Obligations.RejectionChangesOnlyStatus
  intro s t overlap rest hin hw hspace haddr hb
  rw [step_command hin hw hspace haddr hb]
  exact ⟨fun e hdec => presentWord_illegal overlap { s with inputs := rest } hdec,
    fun i e hdec hc => presentWord_rejected (s := { s with inputs := rest }) overlap hdec hb hc⟩

/-- Settles O6: with overlap the step ends at acceptance, and the first phases are those of rule R200. -/
theorem acceptedCommandIsBusy : Obligations.AcceptedCommandIsBusy := by
  unfold Obligations.AcceptedCommandIsBusy
  intro s t rest i hin hw hspace haddr hb hdec hc
  rw [step_command hin hw hspace haddr hb, presentWord_started (s := { s with inputs := rest }) hdec hb hc]
  have hphase : firstPhase i = if i = .gen ∨ i = .synth then .gen else if i = .filt then .filt
      else if i = .narrow then .narrow else .design := by
    cases i <;> rfl
  exact ⟨_, rfl, rfl, hphase, rfl, rfl, rfl, rfl, rfl, rfl, rfl, rfl, rfl⟩

/-! ## Completion -/

@[simp] theorem effectOf_status (i : Instr) (s : State) : (effectOf i s).status = s.status := by
  cases i <;> simp [effectOf]

theorem statusComplete_statusBusy : statusComplete statusBusy = statusDone := by rfl

/-- A whole run ends with `DONE` alone (rules R23, R236). -/
theorem status_complete_effectOf (i : Instr) (s : State) : (complete (effectOf i (accept i s))).status = statusDone := by
  rw [complete_status, effectOf_status, accept_status, statusComplete_statusBusy]

/-- Settles O24: presented while idle, a command is rejected or runs to its completion. -/
theorem noPartialEffects : Obligations.NoPartialEffects := by
  unfold Obligations.NoPartialEffects
  intro i s t hb hexec
  rw [exec_eq_runCommand] at hexec
  rcases runCommand_cases hexec with ⟨hbusy, -⟩ | ⟨-, e, -, rfl⟩ | ⟨-, -, rfl⟩
  · simp [hb] at hbusy
  · exact .inr ⟨rfl, rfl, rfl, rfl⟩
  · exact .inl ⟨status_complete_effectOf i s, rfl⟩

/-! ## The generator's checks, in the order of rule R209 -/

/-- `DUR < 0` (rule R206): `-Inf` and the negative finite values, not `-0`. -/
theorem isNegative_iff (v : W) :
    isNegative v = true ↔ (unpack v = .inf true ∨ ∃ m, m ≠ 0 ∧ unpack v = .fin true m) := by
  unfold isNegative
  cases unpack v with
  | nan => simp
  | inf neg => simp
  | fin neg m => cases neg <;> simp

theorem genLength_eq (p : Params) :
    genLength p = (floorInt (mulW (toW p.rate.toInt) (.pat p.dur))).map Int.toNat := by
  rw [genLength, lengthProduct, rateInt, durW]

theorem lt_genLength {p : Params} {d n : Nat} (hn : genLength p = some n)
    (hlen : ∀ k, floorInt (mulW (toW p.rate.toInt) (.pat p.dur)) = some k → (d : Int) < k) : d < n := by
  rw [genLength_eq, Option.map_eq_some_iff] at hn
  obtain ⟨k, hk, rfl⟩ := hn
  have hlt := hlen k hk
  omega

section GenChecks

variable {cfg : Config} {p : Params}

theorem waveOf_eq_none (h : p.ctrl.extractLsb' 0 2 = 3#2) : waveOf p = none := by
  rw [waveOf, h]
  rfl

theorem genCheck_waveType (h : waveOf p = none) : genCheck cfg p = some .waveType := if_pos h

variable (hwave : waveOf p ≠ none)
include hwave

theorem genCheck_rate (hrate : rateInt p ≤ 0) : genCheck cfg p = some .rate := by
  rw [genCheck, if_neg hwave]
  exact if_pos hrate

variable (hrate : ¬ rateInt p ≤ 0)
include hrate

theorem genCheck_duration (hdur : isNegative (durW p) = true) : genCheck cfg p = some .duration := by
  rw [genCheck, if_neg hwave, if_neg hrate]
  exact if_pos hdur

/-- A length that is no number, or above the depth, fails the capacity check. -/
theorem genCheck_capacity (hdur : ¬ isNegative (durW p) = true) (hlen : ∀ n, genLength p = some n → cfg.bufDepth < n) :
    genCheck cfg p = some .capacity := by
  rw [genCheck, if_neg hwave, if_neg hrate, if_neg hdur]
  cases hn : genLength p with
  | none => rfl
  | some n => exact if_pos (hlen n hn)

end GenChecks

/-- A failing generator check rejects `GEN` and `SYNTH` (rules R209, R212). -/
theorem exec_of_genCheck {i : Instr} {s : State} {e : ErrCode} (hi : i = .gen ∨ i = .synth)
    (hb : s.status.busy = false) (hc : genCheck s.cfg s.par = some e) : exec i s = .next (reject e s) := by
  refine exec_rejected hb ?_
  rcases hi with rfl | rfl
  · exact hc
  · rw [argCheck, hc]

/-- Settles O22: the checks in their order, each once those before it pass. -/
theorem generatorChecksInOrder : Obligations.GeneratorChecksInOrder := by
  unfold Obligations.GeneratorChecksInOrder
  refine ⟨isNegative_iff, fun i s hi hb => ⟨fun hctrl => ?waveType, fun hctrl hrate => ?rate,
    fun hctrl hrate hdur => ?duration, fun hctrl hrate hdur hlen => ?capacity⟩⟩
  case waveType => exact exec_of_genCheck hi hb (genCheck_waveType (waveOf_eq_none hctrl))
  case rate => exact exec_of_genCheck hi hb (genCheck_rate (waveOf_ne_none hctrl) hrate)
  case duration =>
    exact exec_of_genCheck hi hb
      (genCheck_duration (waveOf_ne_none hctrl) hrate.not_ge ((isNegative_iff _).mpr hdur))
  case capacity =>
    have hnonneg : ¬ isNegative (durW s.par) = true := fun h => hdur ((isNegative_iff _).mp h)
    exact exec_of_genCheck hi hb
      (genCheck_capacity (waveOf_ne_none hctrl) hrate.not_ge hnonneg fun n hn => lt_genLength hn hlen)

end Sys2Proof.Machine
end

section
/-! PROOFS. The host during a run (70_reset_and_hazards.md rules R230 to R239): reset abandons it, writes are dropped, reads
of what no command writes are exact, and a turn of the sequencer commutes with everything the host can do to the state. -/

namespace Sys2Proof.Machine

/-- Settles O8: reset keeps the configuration and the model's own fields, and nothing of a run. -/
theorem resetAbandonsTheRun : Obligations.ResetAbandonsTheRun := by
  unfold Obligations.ResetAbandonsTheRun
  intro s rest hin
  exact ⟨_, step_reset hin, rfl⟩

/-- Settles O12: a write to any space meets the test of `BUSY` first. -/
theorem writesWhileBusyAreDropped : Obligations.WritesWhileBusyAreDropped := by
  unfold Obligations.WritesWhileBusyAreDropped
  exact fun s t overlap hb hw => hostAccess_dropped overlap hw hb

/-! ## Exact reads (rule R239) -/

/-- `LEN` and the coefficients aside, which a command writes, a register reads the same busy and idle. -/
theorem regReadBusy_of_stable {r : RegName} (s : State) (hlen : r ≠ .len) (hcoef : ∀ c, r ≠ .coef c) :
    regReadBusy s r = regReadIdle s r := by
  cases r with
  | len => exact absurd rfl hlen
  | coef c => exact absurd rfl (hcoef c)
  | _ => rfl

theorem regRead_of_stable {s : State} {n : Nat} {r : RegName} (hr : regAt n = some r) (hlen : r ≠ .len)
    (hcoef : ∀ c, r ≠ .coef c) : regRead s n = regReadIdle s r := by
  simp [regRead, hr, regReadBusy_of_stable s hlen hcoef]

/-- Settles O13: the general clause, at `STATUS` with the one legal busy value. -/
theorem readsWhileBusyOfStableRegisters : Obligations.ReadsWhileBusyOfStableRegisters := by
  unfold Obligations.ReadsWhileBusyOfStableRegisters
  intro s t overlap hinv hb hw hspace
  have hstatus : statusWord s.status = 1#64 := by
    rw [(hinv.inRun hb).status]
    decide
  refine ⟨_, hostAccess_read overlap hw, ?_⟩
  rw [hostRead_rdata, readData_reg s hspace]
  exact ⟨fun hr => (regRead_of_stable hr (by simp) (by simp)).trans hstatus, regRead_unmapped,
    fun r hr hlen hcoef => regRead_of_stable hr hlen hcoef⟩

/-! ## The sequencer does not see the host (rules R234, R238, R239) -/

/-- `s` with other values in the model's own fields, which record what the host does and has read. -/
def State.withHost (inputs : List HostEvent) (rdata : BitVec 64) (draws : Nat) (s : State) : State :=
  { s with inputs := inputs, rdata := rdata, draws := draws }

section WithHost

variable (inputs : List HostEvent) (rdata : BitVec 64) (draws : Nat) (s : State)

/-- The host's fields are the same on both ways out of a test. -/
theorem ite_withHost (c : Prop) [Decidable c] (t e : State) :
    (if c then t else e).withHost inputs rdata draws =
      if c then t.withHost inputs rdata draws else e.withHost inputs rdata draws :=
  apply_ite (State.withHost inputs rdata draws) c t e

theorem leaveEqualizer_withHost :
    leaveEqualizer (s.withHost inputs rdata draws) = (leaveEqualizer s).withHost inputs rdata draws := by
  rw [leaveEqualizer, leaveEqualizer, ite_withHost]
  rfl

theorem leaveGen_withHost : leaveGen (s.withHost inputs rdata draws) = (leaveGen s).withHost inputs rdata draws := by
  rw [leaveGen, leaveGen, ite_withHost, leaveEqualizer_withHost]
  rfl

theorem leaveDesign_withHost :
    leaveDesign (s.withHost inputs rdata draws) = (leaveDesign s).withHost inputs rdata draws := by
  rw [leaveDesign, leaveDesign, ite_withHost]
  rfl

theorem leaveFilt_withHost :
    leaveFilt (s.withHost inputs rdata draws) = (leaveFilt s).withHost inputs rdata draws := by
  rw [leaveFilt, leaveFilt, ite_withHost]
  rfl

theorem leaveNarrow_withHost :
    leaveNarrow (s.withHost inputs rdata draws) = (leaveNarrow s).withHost inputs rdata draws := by
  rw [leaveNarrow, leaveNarrow, ite_withHost, ite_withHost, leaveEqualizer_withHost]
  rfl

theorem stepGen_withHost : stepGen (s.withHost inputs rdata draws) = (stepGen s).withHost inputs rdata draws := by
  rw [stepGen, stepGen, ite_withHost, ← leaveGen_withHost]
  rfl

theorem stepDesign_withHost :
    stepDesign (s.withHost inputs rdata draws) = (stepDesign s).withHost inputs rdata draws := by
  rw [stepDesign, stepDesign, ite_withHost, ← leaveDesign_withHost, ← leaveDesign_withHost]
  rfl

theorem stepFilt_withHost : stepFilt (s.withHost inputs rdata draws) = (stepFilt s).withHost inputs rdata draws := by
  rw [stepFilt, stepFilt, ite_withHost, leaveFilt_withHost]
  rfl

theorem stepNarrow_withHost :
    stepNarrow (s.withHost inputs rdata draws) = (stepNarrow s).withHost inputs rdata draws := by
  rw [stepNarrow, stepNarrow, ite_withHost, leaveNarrow_withHost]
  rfl

/-- A turn of the sequencer neither reads nor writes what the host's accesses change. -/
theorem sequencerStep_withHost :
    sequencerStep (s.withHost inputs rdata draws) = (sequencerStep s).withHost inputs rdata draws := by
  have hseq : (s.withHost inputs rdata draws).seq = s.seq := rfl
  unfold sequencerStep
  rw [hseq]
  cases s.seq.phase with
  | idle => rfl
  | gen => exact stepGen_withHost inputs rdata draws s
  | design => exact stepDesign_withHost inputs rdata draws s
  | filt => exact stepFilt_withHost inputs rdata draws s
  | narrow => exact stepNarrow_withHost inputs rdata draws s

theorem sequencerRun_withHost (n : Nat) :
    sequencerRun n (s.withHost inputs rdata draws) = (sequencerRun n s).withHost inputs rdata draws := by
  induction n generalizing s with
  | zero => rfl
  | succ n ih => rw [sequencerRun, sequencerRun, sequencerStep_withHost, ih]

end WithHost

/-- A turn of the sequencer takes no host event: it commutes with setting `inputs` to what they are. -/
@[simp] theorem sequencerStep_inputs (s : State) : (sequencerStep s).inputs = s.inputs := by
  have hsame : sequencerStep s = (sequencerStep s).withHost s.inputs s.rdata s.draws :=
    sequencerStep_withHost s.inputs s.rdata s.draws s
  rw [hsame]
  rfl

/-- While busy an access is a read, which the model's own fields record, or a dropped write. -/
theorem hostAccess_busy {s : State} (t : Transaction) (overlap : Bool) (hb : s.status.busy = true) :
    ∃ rdata draws, hostAccess t overlap s = .next (s.withHost s.inputs rdata draws) := by
  cases hw : t.we with
  | false => exact ⟨_, _, hostAccess_read overlap hw⟩
  | true => exact ⟨_, _, hostAccess_dropped overlap hw hb⟩

/-- Settles O49: the access changes only fields with which a turn of the sequencer commutes. -/
theorem hostCannotDisturbARun : Obligations.HostCannotDisturbARun := by
  unfold Obligations.HostCannotDisturbARun
  intro s t o hb
  obtain ⟨rdata, draws, hnext⟩ := hostAccess_busy t o hb
  refine ⟨_, hnext, rfl, ?_⟩
  rw [sequencerStep_withHost, ← sequencerStep_inputs s]
  rfl

end Sys2Proof.Machine
end

section
/-! PROOFS. The synthesis pipeline (47_synthesis_pipeline.md rules R196 to R202): what each part of it makes of the working
copy, and `SYNTH` against the commands `GEN`, `EQ` and `RES`. -/

namespace Sys2Proof.Machine

/-! ## The three parts of the pipeline (rule R196) -/

/-- The equalizer's part of the pipeline. -/
def eqIfEnabled (s : State) : State := if eqEn s.par = true then eqStage (setStage .eq s) else s

/-- The resonator's part of the pipeline. -/
def resIfEnabled (s : State) : State := if resEn s.par = true then resStage (setStage .res s) else s

section Parts

variable {s : State}

theorem eqIfEnabled_of_enabled (h : eqEn s.par = true) : eqIfEnabled s = eqStage (setStage .eq s) := if_pos h

theorem eqIfEnabled_of_disabled (h : ¬ eqEn s.par = true) : eqIfEnabled s = s := if_neg h

theorem resIfEnabled_of_enabled (h : resEn s.par = true) : resIfEnabled s = resStage (setStage .res s) := if_pos h

theorem resIfEnabled_of_disabled (h : ¬ resEn s.par = true) : resIfEnabled s = s := if_neg h

end Parts

@[simp] theorem eqIfEnabled_cfg (s : State) : (eqIfEnabled s).cfg = s.cfg := by
  unfold eqIfEnabled
  split <;> simp

@[simp] theorem eqIfEnabled_par (s : State) : (eqIfEnabled s).par = s.par := by
  unfold eqIfEnabled
  split <;> simp

theorem synthStage_eq (s : State) : synthStage s = resIfEnabled (eqIfEnabled (genStage s)) := by
  rw [resIfEnabled, eqIfEnabled_par, eqIfEnabled, genStage_par, synthStage]

/-- The set in the working copy after the two optional parts: the last one designed (rule R199). -/
theorem resIfEnabled_work_coef (s : State) :
    (resIfEnabled (eqIfEnabled s)).work.coef =
      if resEn s.par = true then resCoef s.cfg s.par
      else if eqEn s.par = true then bandCoef s.par 9#4 else s.work.coef := by
  rw [resIfEnabled, eqIfEnabled_par]
  split
  · simp
  · unfold eqIfEnabled
    split <;> simp

/-! ## The samples in the working copy -/

/-- The working copy holds the samples `xs` in `BUF[0..LEN-1]`, and beyond them what the buffer `m` holds. -/
structure WorkHolds (m : Memory) (w : Work) (xs : List W) : Prop where
  buf : BufHolds m w.buf xs
  len : xs.length = w.len.toNat

theorem WorkHolds.reads {m : Memory} {w : Work} {xs : List W} (h : WorkHolds m w xs) : readEntries w = xs :=
  h.buf.readEntries_eq h.len

/-- A length the buffer has room for fits `LEN` (rules R6, R27). -/
theorem toNat_ofNat_of_le_bufDepth {cfg : Config} {n : Nat} (hcfg : cfg.wf = true) (hn : n ≤ cfg.bufDepth) :
    (BitVec.ofNat 32 n).toNat = n := by
  have hdepth := bufDepth_le_of_wf hcfg
  rw [BitVec.toNat_ofNat, Nat.mod_eq_of_lt (by omega)]

/-- The generated waveform (rule R100). -/
def waveform (cfg : Config) (p : Params) (n : Nat) : List W := (List.range n).map (genSample cfg p)

theorem bufHolds_genStage (s : State) :
    BufHolds s.work.buf (genStage s).work.buf (waveform s.cfg s.par (genLengthD s.par)) := by
  rw [genStage_work_buf]
  exact bufHolds_writeList _ _

theorem workHolds_genStage {s : State} {n : Nat} (hcfg : s.cfg.wf = true) (hn : genLength s.par = some n)
    (hcap : n ≤ s.cfg.bufDepth) : WorkHolds s.work.buf (genStage s).work (waveform s.cfg s.par n) := by
  have hlen : genLengthD s.par = n := by simp [genLengthD, hn]
  refine ⟨hlen ▸ bufHolds_genStage s, ?_⟩
  rw [genStage_work_len, hlen, toNat_ofNat_of_le_bufDepth hcfg hcap]
  simp [waveform]

/-- The samples after the equalizer's part of the pipeline. -/
def eqSignal (cfg : Config) (p : Params) (xs : List W) : List W :=
  if eqEn p = true then chainPass cfg.biquadForm cfg.narrowMode (bandOrder.map (bandCoef p)) xs else xs

/-- The samples after the resonator's part of the pipeline. -/
def resSignal (cfg : Config) (p : Params) (xs : List W) : List W :=
  if resEn p = true then filterPass cfg.biquadForm (resCoef cfg p) xs else xs

section WorkHolds

variable {m : Memory} {s : State} {xs : List W} (h : WorkHolds m s.work xs)
include h

theorem WorkHolds.eqStage :
    WorkHolds m (eqStage s).work
      (chainPass s.cfg.biquadForm s.cfg.narrowMode (bandOrder.map (bandCoef s.par)) xs) := by
  have hchain := bufHolds_eqStage s
  rw [h.reads] at hchain
  exact ⟨h.buf.trans hchain (by simp), by simp [h.len]⟩

theorem WorkHolds.resStage :
    WorkHolds m (resStage s).work (filterPass s.cfg.biquadForm (resCoef s.cfg s.par) xs) := by
  have hpass := bufHolds_filtStage (designResStage s)
  simp only [designResStage_work, designResStage_cfg, readEntries_with_coef, h.reads] at hpass
  exact ⟨h.buf.trans hpass (by simp), by simp [h.len]⟩

theorem WorkHolds.eqIfEnabled : WorkHolds m (eqIfEnabled s).work (eqSignal s.cfg s.par xs) := by
  unfold Machine.eqIfEnabled eqSignal
  split
  · exact WorkHolds.eqStage (s := setStage .eq s) h
  · exact h

theorem WorkHolds.resIfEnabled : WorkHolds m (resIfEnabled s).work (resSignal s.cfg s.par xs) := by
  unfold Machine.resIfEnabled resSignal
  split
  · exact WorkHolds.resStage (s := setStage .res s) h
  · exact h

end WorkHolds

/-! ## What a completed `SYNTH` leaves -/

/-- The state in which an accepted `SYNTH` ends. -/
def synthDone (s : State) : State := complete (synthStage (accept .synth s))

theorem exec_synth {s : State} (hb : s.status.busy = false) (hc : argCheck s.cfg s.par .synth = none) :
    exec .synth s = .next (synthDone s) :=
  (exec_eq_runCommand .synth s).trans (runCommand_accepted synthStage hb hc)

/-- The checks of `SYNTH`: the generator's, and the equalizer's if it is enabled (rule R209). -/
theorem argCheck_synth_iff {cfg : Config} {p : Params} :
    argCheck cfg p .synth = none ↔ genCheck cfg p = none ∧ (eqEn p = true → 10 ≤ gainCnt p) := by
  cases hg : genCheck cfg p with
  | some e => simp [argCheck, hg]
  | none =>
    by_cases he : eqEn p = true
    · rw [argCheck_synth_of_eqEn hg he, gainCheck]
      simp [he]
    · simp [argCheck, hg, he]

section SynthDone

variable (s : State)

theorem synthDone_status : (synthDone s).status = statusDone := status_complete_effectOf .synth s

theorem synthDone_phase : (synthDone s).seq.phase = .idle := by simp [synthDone]

theorem synthDone_coef :
    (synthDone s).coef =
      if resEn s.par = true then resCoef s.cfg s.par
      else if eqEn s.par = true then bandCoef s.par 9#4 else s.coef := by
  rw [synthDone, complete_coef, synthStage_eq, resIfEnabled_work_coef]
  simp [takeWork]

theorem untouched_synthDone : Untouched s (synthDone s) := by simp [Untouched, synthDone]

/-- The working copy of an accepted `SYNTH` at its end: the waveform through the parts that are enabled. -/
theorem workHolds_synthStage {n : Nat} (hcfg : s.cfg.wf = true) (hn : genLength s.par = some n)
    (hcap : n ≤ s.cfg.bufDepth) :
    WorkHolds s.buf (synthStage (accept .synth s)).work
      (resSignal s.cfg s.par (eqSignal s.cfg s.par (waveform s.cfg s.par n))) := by
  have hgen := workHolds_genStage (s := accept .synth s) hcfg hn hcap
  have hall := hgen.eqIfEnabled.resIfEnabled
  rw [← synthStage_eq] at hall
  simpa [takeWork] using hall

end SynthDone

@[simp] theorem length_eqSignal (cfg : Config) (p : Params) (xs : List W) :
    (eqSignal cfg p xs).length = xs.length := by
  unfold eqSignal
  split <;> simp

@[simp] theorem length_resSignal (cfg : Config) (p : Params) (xs : List W) :
    (resSignal cfg p xs).length = xs.length := by
  unfold resSignal
  split <;> simp

@[simp] theorem length_waveform (cfg : Config) (p : Params) (n : Nat) : (waveform cfg p n).length = n := by
  simp [waveform]

theorem waveform_of_wave (cfg : Config) {p : Params} {wave : Wave} (h : waveOf p = some wave) (n : Nat) :
    waveform cfg p n = (List.range n).map fun i =>
      waveSample Config.functions cfg.signZero wave (freqW p) (ampW p) (timeOf (rateInt p) i) := by
  rw [waveform, funext (genSample_of_wave cfg h)]

/-- Settles O37: the checks pass, and the parts of the pipeline act on the working copy one after the other. -/
theorem synthRunsThePipeline : Obligations.SynthRunsThePipeline := by
  unfold Obligations.SynthRunsThePipeline
  intro s wave n hcfg hb hwave hrate hdur hfloor hcap hgains
  have hn : genLength s.par = some n := genLength_of_floorInt hfloor
  have hcheck : argCheck s.cfg s.par .synth = none :=
    argCheck_synth_iff.mpr ⟨genCheck_eq_none (by simp [hwave]) hrate hdur hn hcap, hgains⟩
  have hwork := workHolds_synthStage s hcfg hn hcap
  have hlen : (synthDone s).len.toNat = n := hwork.len.symm.trans (by simp)
  exact ⟨synthDone s, waveform s.cfg s.par n, eqSignal s.cfg s.par (waveform s.cfg s.par n),
    resSignal s.cfg s.par (eqSignal s.cfg s.par (waveform s.cfg s.par n)), exec_synth hb hcheck, synthDone_status s,
    synthDone_phase s, hlen, waveform_of_wave s.cfg hwave n, rfl, rfl, hwork.buf, by simp, synthDone_coef s,
    untouched_synthDone s⟩

/-! ## `SYNTH` against its commands (rule R202) -/

/-- Where every entry below `LEN` has been written, the free values of unwritten ones do not matter. -/
theorem BufHolds.readEntries_congr {m : Memory} {w v : Work} {ys : List W} (h : BufHolds m w.buf ys)
    (hlen : w.len.toNat ≤ ys.length) (hbuf : v.buf = w.buf) (hvlen : v.len = w.len) :
    readEntries v = readEntries w := by
  obtain ⟨hbelow, -⟩ := h
  rw [readEntries, readEntries, hvlen]
  refine List.map_congr_left fun j hj => ?_
  have hj' : j < ys.length := (List.mem_range.mp hj).trans_le hlen
  simp [readEntry, hbuf, hbelow j hj', hj']

/-- The host's view shows a working copy that is written below `LEN`, once the fields agree. -/
theorem showsWork_of_written {s c : State} {m : Memory} {ys : List W} (hidle : c.status.busy = false)
    (hcfg : c.cfg = s.cfg) (hpar : c.par = s.par) (hbuf : c.buf = s.work.buf) (hlen : c.len = s.work.len)
    (hcoef : c.coef = s.work.coef) (hwritten : BufHolds m s.work.buf ys) (hys : s.work.len.toNat ≤ ys.length) :
    ShowsWork s c :=
  ⟨hidle, hcfg, hpar, hbuf, hlen, hcoef, hwritten.readEntries_congr (v := takeWork c) hys hbuf hlen⟩

theorem ShowsWork.setStage {s c : State} (g : Stage) (h : ShowsWork s c) : ShowsWork (setStage g s) c := { h with }

/-- `GEN` from an idle state shows what the generator makes of the working copy of `SYNTH`. -/
theorem showsWork_genDone (s : State) : ShowsWork (genStage (accept .synth s)) (genDone s) := by
  obtain ⟨hcfg, hpar, -⟩ := untouched_genDone s
  refine showsWork_of_written (by rw [genDone_status, statusDone]) (by simp [hcfg]) (by simp [hpar]) (by simp [genDone])
    (by simp [genDone]) (by simp [genDone]) (bufHolds_genStage (accept .synth s)) ?_
  rw [genStage_work_len, BitVec.toNat_ofNat, length_waveform]
  exact Nat.mod_le _ _

/-- `EQ` from a state that shows the working copy shows what the equalizer makes of it: both end where the thirty commands
of rule R190 end. -/
theorem ShowsWork.equalize {s c : State} (h : ShowsWork s c) : ShowsWork (eqStage s) (eqDone c) := by
  obtain ⟨hcfg, hpar, -⟩ := untouched_eqDone c
  obtain ⟨u, hrun, hu⟩ := h.bands toNat_lt_of_mem_bandOrder
  obtain ⟨v, hrun', hv⟩ := (showsWork_accept .equalize h.idle).bands toNat_lt_of_mem_bandOrder
  obtain rfl : v = u := Host.Outcome.next.inj (hrun'.symm.trans hrun)
  exact showsWork_of_written (by rw [eqDone_status, statusDone]) (by rw [hcfg, h.cfg, eqStage_cfg])
    (by rw [hpar, h.par, eqStage_par]) (hv.buf.symm.trans hu.buf) (hv.len.symm.trans hu.len)
    (hv.coef.symm.trans hu.coef) (bufHolds_eqStage s) (by simp)

/-- `RES` from a state that shows the working copy shows what the resonator makes of it. -/
theorem ShowsWork.resonate {s c : State} (h : ShowsWork s c) : ShowsWork (resStage s) (resDone c) := by
  obtain ⟨hcfg, hpar, -⟩ := untouched_resDone c
  refine showsWork_of_written (by rw [resDone_status, statusDone]) (by rw [hcfg, h.cfg, resStage_cfg])
    (by rw [hpar, h.par, resStage_par]) ?buf (by rw [resDone_len, h.len, resStage_work_len]) ?coef
    (bufHolds_filtStage (designResStage s)) (by simp)
  case buf => rw [resDone_buf, resStage_work_buf, h.buf, h.cfg, h.par, h.reads]
  case coef => rw [resDone_coef, resStage_work_coef, h.cfg, h.par]

/-- The command `eq`, presented if it is enabled, shows the equalizer's part of the pipeline. -/
theorem ShowsWork.eqCommand {s c : State} (h : ShowsWork s c) (hdone : c.status = statusDone)
    (hgains : eqEn s.par = true → 10 ≤ gainCnt s.par) (is : List Instr) :
    ∃ u, execAll ((if eqEn s.par = true then [.equalize] else []) ++ is) c = execAll is u ∧
      ShowsWork (eqIfEnabled s) u ∧ u.status = statusDone := by
  by_cases he : eqEn s.par = true
  · have hexec := exec_equalize h.idle (h.par ▸ hgains he)
    rw [if_pos he, eqIfEnabled_of_enabled he]
    exact ⟨eqDone c, execAll_cons is hexec, (h.setStage .eq).equalize, eqDone_status c⟩
  · rw [if_neg he, eqIfEnabled_of_disabled he]
    exact ⟨c, rfl, h, hdone⟩

/-- The command `res`, presented if it is enabled, shows the resonator's part of the pipeline. -/
theorem ShowsWork.resCommand {s c : State} (h : ShowsWork s c) (hdone : c.status = statusDone) :
    ∃ u, execAll (if resEn s.par = true then [.res] else []) c = .next u ∧
      ShowsWork (resIfEnabled s) u ∧ u.status = statusDone := by
  by_cases he : resEn s.par = true
  · rw [if_pos he, resIfEnabled_of_enabled he]
    exact ⟨resDone c, execAll_cons [] (exec_res h.idle), (h.setStage .res).resonate, resDone_status c⟩
  · rw [if_neg he, resIfEnabled_of_disabled he]
    exact ⟨c, rfl, h, hdone⟩

/-- The commands of an accepted `SYNTH`, one after the other, end in a state that shows its working copy. -/
theorem execAll_synth_commands {s : State} (hb : s.status.busy = false) (hc : argCheck s.cfg s.par .synth = none) :
    ∃ u, execAll (.gen :: ((if eqEn s.par = true then [.equalize] else []) ++
        (if resEn s.par = true then [.res] else []))) s = .next u ∧
      ShowsWork (synthStage (accept .synth s)) u ∧ u.status = statusDone := by
  obtain ⟨hgen, hgains⟩ := argCheck_synth_iff.mp hc
  obtain ⟨u, hrun, hshows, hdone⟩ := (showsWork_genDone s).eqCommand (genDone_status s) (by simpa using hgains)
    (if resEn s.par = true then [.res] else [])
  obtain ⟨v, hrun', hshows', hdone'⟩ := hshows.resCommand hdone
  simp only [eqIfEnabled_par, genStage_par, accept_par] at hrun hrun'
  rw [synthStage_eq]
  exact ⟨v, (execAll_cons _ (exec_gen hb hgen)).trans (hrun.trans hrun'), hshows', hdone'⟩

/-- Settles O40: completion publishes the working copy the commands show; and a failing gain count rejects `SYNTH` before
its generator runs, and `EQ` after it. -/
theorem synthEqualsItsCommands : Obligations.SynthEqualsItsCommands := by
  unfold Obligations.SynthEqualsItsCommands
  refine fun s hb => ⟨fun hc => ?accepted, fun hgen heq hgains => ?rejected⟩
  case accepted =>
    obtain ⟨u, hrun, hshows, hdone⟩ := execAll_synth_commands hb hc
    exact ⟨synthDone s, u, exec_synth hb hc, hrun, hshows.len, hshows.buf, hshows.coef,
      hdone.trans (synthDone_status s).symm⟩
  case rejected =>
    obtain ⟨-, hsynth⟩ := fewerThanTenGainsAreRejected s hb hgains
    obtain ⟨-, hpar, -⟩ := untouched_genDone s
    have hidle : (genDone s).status.busy = false := (showsWork_genDone s).idle
    obtain ⟨hequalize, -⟩ := fewerThanTenGainsAreRejected (genDone s) hidle (hpar ▸ hgains)
    exact ⟨_, genDone s, _, hsynth heq hgen, rfl, rfl, exec_gen hb hgen, genDone_status s, hequalize, rfl⟩

/-! ## `SYNTH` without equalizer and resonator (rule R201) -/

section StagesDisabled

variable {s : State} (heq : eqEn s.par = false)
include heq

theorem argCheck_synth_of_disabled : argCheck s.cfg s.par .synth = genCheck s.cfg s.par := by
  cases hg : genCheck s.cfg s.par <;> simp [argCheck, hg, heq]

theorem synthStage_of_disabled (hres : resEn s.par = false) : synthStage s = genStage s := by
  simp [synthStage, heq, hres]

end StagesDisabled

/-- One second at 44100 Hz: the product with `1` is exact. -/
theorem genLength_one_second {p : Params} (hrate : p.rate = 44100#32) (hdur : p.dur = 0x3FF0000000000000#64) :
    genLength p = some 44100 := by
  refine genLength_of_floorInt ?_
  rw [hrate, hdur]
  decide +kernel

theorem genCheck_one_second {s : State} (hctrl : s.par.ctrl.extractLsb' 0 2 ≠ 3#2) (hrate : s.par.rate = 44100#32)
    (hdur : s.par.dur = 0x3FF0000000000000#64) (hcap : 44100 ≤ s.cfg.bufDepth) : genCheck s.cfg s.par = none := by
  refine genCheck_eq_none (waveOf_ne_none hctrl) ?rate ?dur (genLength_one_second hrate hdur) hcap
  case rate => rw [hrate]; decide
  case dur => rw [hdur]; decide +kernel

/-- Settles O41: the checks and the stage of `SYNTH` are those of `GEN`. -/
theorem synthWithStagesDisabledIsGen : Obligations.SynthWithStagesDisabledIsGen := by
  unfold Obligations.SynthWithStagesDisabledIsGen
  intro s hb heq hres
  have hcheck := argCheck_synth_of_disabled heq
  cases hg : genCheck s.cfg s.par with
  | some e =>
    refine ⟨reject e s, reject e s, exec_of_genCheck (.inr rfl) hb hg, exec_of_genCheck (.inl rfl) hb hg,
      rfl, rfl, rfl, rfl, rfl, fun hctrl hrate hdur hcap => ?_⟩
    rw [genCheck_one_second hctrl hrate hdur hcap] at hg
    cases hg
  | none =>
    have hstage : synthStage (accept .synth s) = genStage (accept .synth s) := synthStage_of_disabled heq hres
    have hshows := showsWork_genDone s
    rw [← hstage] at hshows
    refine ⟨synthDone s, genDone s, exec_synth hb (hcheck.trans hg), exec_gen hb hg, hshows.len, hshows.buf,
      hshows.coef, (genDone_status s).trans (synthDone_status s).symm, hshows.coef.symm.trans (genDone_coef s),
      fun _ hrate hdur _ => ⟨synthDone_status s, ?_⟩⟩
    exact hshows.len.symm.trans (genDone_len (genLength_one_second hrate hdur))

end Sys2Proof.Machine
end

section
/-! PROOFS. The sequencer in micro-steps (47_synthesis_pipeline.md rule R200, 70_reset_and_hazards.md rules R236, R237): a loop
of turns is one stage of the whole run, so the micro-steps of a command end in the state its whole run gives; and every
running command completes, whatever turn it is at. -/

namespace Sys2Proof.Machine

/-! ## Runs of micro-steps -/

/-- Finitely many micro-steps lead from `s` to `t`. -/
def Reaches (s t : State) : Prop := ∃ n, sequencerRun n s = t

theorem sequencerRun_add (m n : Nat) (s : State) : sequencerRun (m + n) s = sequencerRun n (sequencerRun m s) := by
  induction m generalizing s with
  | zero => rw [Nat.zero_add, sequencerRun]
  | succ m ih => rw [Nat.succ_add, sequencerRun, ih, sequencerRun]

theorem Reaches.refl (s : State) : Reaches s s := ⟨0, rfl⟩

theorem Reaches.trans {s t u : State} (h : Reaches s t) (h' : Reaches t u) : Reaches s u := by
  obtain ⟨m, rfl⟩ := h
  obtain ⟨n, rfl⟩ := h'
  exact ⟨m + n, sequencerRun_add m n s⟩

theorem reaches_sequencerStep (s : State) : Reaches s (sequencerStep s) := ⟨1, rfl⟩

/-! ## The loops over the samples

The three loops have one shape: a turn replaces the entry at the index, and the delay registers, by what a function of
the index, the delay registers and the entry gives. -/

/-- One turn of a loop whose samples are made by `f`. -/
def loopTurn (f : Nat → Delay → W → W × Delay) (s : State) : State :=
  let r := f s.seq.i.toNat s.delay (readEntry s.work s.seq.i.toNat)
  bumpIndex (setDelay r.2 (storeEntry s.seq.i.toNat r.1 s))

/-- What `f` makes of the entries `xs` from index `i` on, and the delay registers after them. -/
def loopRun (f : Nat → Delay → W → W × Delay) : Nat → Delay → List W → List W × Delay
  | _, d, [] => ([], d)
  | i, d, x :: xs =>
    ((f i d x).1 :: (loopRun f (i + 1) (f i d x).2 xs).1, (loopRun f (i + 1) (f i d x).2 xs).2)

/-- What `f` makes of the next `n` entries of the loop. -/
def loopResult (f : Nat → Delay → W → W × Delay) (n : Nat) (s : State) : List W × Delay :=
  loopRun f s.seq.i.toNat s.delay ((List.range' s.seq.i.toNat n).map (readEntry s.work))

/-- `s` after `n` turns of the loop at once. -/
def loopAfter (f : Nat → Delay → W → W × Delay) (n : Nat) (s : State) : State :=
  { s with
    delay := (loopResult f n s).2
    seq := { s.seq with i := s.seq.i + BitVec.ofNat 32 n }
    work := { s.work with buf := Memory.writeList s.work.buf s.seq.i.toNat (loopResult f n s).1 } }

/-- A turn leaves the entries after its own as they were. -/
theorem map_readEntry_storeEntry {i a : Nat} (h : i < a) (n : Nat) (v : W) (s : State) :
    (List.range' a n).map (readEntry (storeEntry i v s).work) = (List.range' a n).map (readEntry s.work) := by
  refine List.map_congr_left fun j hj => ?_
  obtain ⟨hj, -⟩ := List.mem_range'_1.mp hj
  have hother : Memory.read (Memory.write s.work.buf i v) j = Memory.read s.work.buf j :=
    read_write_other _ v (by omega)
  simp [readEntry, hother]

section Loop

variable (f : Nat → Delay → W → W × Delay) {s : State}

theorem loopAfter_zero : loopAfter f 0 s = s := by
  simp [loopAfter, loopResult, loopRun, Memory.writeList]

/-- A turn's value goes in front of what the rest of the loop makes. -/
theorem loopResult_succ (n : Nat) (hi : s.seq.i.toNat + 1 < 2 ^ 32) :
    loopResult f (n + 1) s =
      ((f s.seq.i.toNat s.delay (readEntry s.work s.seq.i.toNat)).1 :: (loopResult f n (loopTurn f s)).1,
        (loopResult f n (loopTurn f s)).2) := by
  have hindex : (s.seq.i + 1#32).toNat = s.seq.i.toNat + 1 := by bv_omega
  have hentries := map_readEntry_storeEntry (Nat.lt_succ_self s.seq.i.toNat) n
    (f s.seq.i.toNat s.delay (readEntry s.work s.seq.i.toNat)).1 s
  simp only [loopResult, List.range'_succ, List.map_cons, loopRun, loopTurn, bumpIndex, setIndex_seq, setIndex_delay,
    setIndex_work, setDelay_seq, setDelay_delay, setDelay_work, storeEntry_seq, hindex, hentries]

theorem loopAfter_succ (n : Nat) (hi : s.seq.i.toNat + 1 < 2 ^ 32) :
    loopAfter f (n + 1) s = loopAfter f n (loopTurn f s) := by
  have hindex : (s.seq.i + 1#32).toNat = s.seq.i.toNat + 1 := by bv_omega
  have hlast : s.seq.i + BitVec.ofNat 32 (n + 1) = s.seq.i + 1#32 + BitVec.ofNat 32 n := by bv_omega
  rw [loopAfter, loopAfter, loopResult_succ f n hi, Memory.writeList, hlast, ← hindex]
  rfl

end Loop

/-- What a turn of the running loop makes (rule R200). -/
def loopBody (s : State) : Nat → Delay → W → W × Delay :=
  match s.seq.phase with
  | .gen => fun i d _ => (genSample s.cfg s.par i, d)
  | .filt => fun _ d x => filterStep s.work.coef d x
  | .narrow => fun _ d x => (narrowStep s.cfg.narrowMode x, d)
  | .idle => fun _ d x => (x, d)
  | .design => fun _ d x => (x, d)

/-- Where the running loop goes at its end (rule R200). -/
def leaveLoop (s : State) : State :=
  match s.seq.phase with
  | .gen => leaveGen (storeLen (genLengthD s.par) s)
  | .filt => leaveFilt s
  | .narrow => leaveNarrow s
  | .idle => s
  | .design => s

/-- The phases that run over the samples. -/
def InLoop (s : State) : Prop := s.seq.phase = .gen ∨ s.seq.phase = .filt ∨ s.seq.phase = .narrow

/-- A micro-step of a loop is a turn, or the end of the loop. -/
theorem sequencerStep_loop {s : State} (h : InLoop s) :
    sequencerStep s = if s.seq.i.toNat < loopBound s then loopTurn (loopBody s) s else leaveLoop s := by
  rcases h with hp | hp | hp <;>
    · simp only [sequencerStep, loopBound, loopBody, leaveLoop, hp]
      rfl

/-- A loop runs to its bound and ends. -/
theorem reaches_leaveLoop {s : State} {n : Nat} (h : InLoop s) (hn : s.seq.i.toNat + n = loopBound s)
    (hbound : loopBound s < 2 ^ 32) : Reaches s (leaveLoop (loopAfter (loopBody s) n s)) := by
  induction n generalizing s with
  | zero =>
    have hend : sequencerStep s = leaveLoop s := by rw [sequencerStep_loop h, if_neg (by omega)]
    rw [loopAfter_zero, ← hend]
    exact reaches_sequencerStep s
  | succ n ih =>
    have hturn : sequencerStep s = loopTurn (loopBody s) s := by rw [sequencerStep_loop h, if_pos (by omega)]
    have hindex : (s.seq.i + 1#32).toNat = s.seq.i.toNat + 1 := by bv_omega
    have hrest : (loopTurn (loopBody s) s).seq.i.toNat + n = loopBound s := by
      change (s.seq.i + 1#32).toNat + n = _
      omega
    rw [loopAfter_succ _ n (by omega)]
    exact (hturn ▸ reaches_sequencerStep s).trans (ih (s := loopTurn (loopBody s) s) h hrest hbound)

/-! ## A loop from index 0 is a stage -/

theorem loopRun_of_index (g : Nat → W) (i : Nat) (d : Delay) (xs : List W) :
    loopRun (fun j e _ => (g j, e)) i d xs = ((List.range' i xs.length).map g, d) := by
  induction xs generalizing i with
  | nil => rfl
  | cons x xs ih => simp [loopRun, ih, List.range'_succ]

theorem loopRun_filterStep (c : Coef) (i : Nat) (d : Delay) (xs : List W) :
    loopRun (fun _ e x => filterStep c e x) i d xs = filterList c d xs := by
  induction xs generalizing i d with
  | nil => rfl
  | cons x xs ih => simp [loopRun, filterList_cons, ih]

theorem loopRun_of_entry (g : W → W) (i : Nat) (d : Delay) (xs : List W) :
    loopRun (fun _ e x => (g x, e)) i d xs = (xs.map g, d) := by
  induction xs generalizing i with
  | nil => rfl
  | cons x xs ih => simp [loopRun, ih]

section Stages

variable {s : State}

/-- What a loop from index 0 leaves, by the samples it makes. -/
theorem loopAfter_of_result {f : Nat → Delay → W → W × Delay} {n : Nat} {ys : List W} {d : Delay}
    (hi : s.seq.i = 0#32) (hresult : loopResult f n s = (ys, d)) :
    loopAfter f n s = setIndex (BitVec.ofNat 32 n) (setDelay d (storeEntries ys s)) := by
  rw [loopAfter, hresult, hi, BitVec.zero_add]
  rfl

theorem map_readEntry_range' (hi : s.seq.i = 0#32) :
    (List.range' s.seq.i.toNat s.work.len.toNat).map (readEntry s.work) = readEntries s.work := by
  rw [readEntries, List.range_eq_range', hi]
  rfl

/-- `LEN` is written at the end of the generator's loop, and the delay registers keep their values. -/
theorem storeLen_setIndex_setDelay (n : Nat) (j : BitVec 32) (ys : List W) (s : State) :
    storeLen n (setIndex j (setDelay s.delay (storeEntries ys s))) = setIndex j (storeLen n (storeEntries ys s)) := by
  rfl

/-- The generator's loop is its stage (rule R100). -/
theorem reaches_genStage (hp : s.seq.phase = .gen) (hi : s.seq.i = 0#32) (hbound : genLengthD s.par < 2 ^ 32) :
    Reaches s (leaveGen (genStage s)) := by
  have hbody : loopBody s = fun j e _ => (genSample s.cfg s.par j, e) := by simp only [loopBody, hp]
  have hresult : loopResult (loopBody s) (genLengthD s.par) s =
      ((List.range (genLengthD s.par)).map (genSample s.cfg s.par), s.delay) := by
    rw [hbody, loopResult, loopRun_of_index, List.length_map, List.length_range', List.range_eq_range', hi,
      BitVec.toNat_zero]
  have hloop := reaches_leaveLoop (n := genLengthD s.par) (.inl hp) (by simp [hi, loopBound_gen hp])
    (by rwa [loopBound_gen hp])
  rw [loopAfter_of_result hi hresult] at hloop
  simp only [leaveLoop, setIndex_seq, setDelay_seq, storeEntries_seq, hp, setIndex_par, setDelay_par, storeEntries_par,
    storeLen_setIndex_setDelay] at hloop
  rwa [genStage]

/-- The filter's loop is one pass (rule R152). -/
theorem reaches_filtStage (hp : s.seq.phase = .filt) (hi : s.seq.i = 0#32)
    (hd : s.delay = Delay.zero s.cfg.biquadForm) : Reaches s (leaveFilt (filtStage s)) := by
  have hbody : loopBody s = fun _ e x => filterStep s.work.coef e x := by simp only [loopBody, hp]
  have hresult : loopResult (loopBody s) s.work.len.toNat s =
      (filterPass s.cfg.biquadForm s.work.coef (readEntries s.work),
        delayAfter s.cfg.biquadForm s.work.coef (readEntries s.work)) := by
    rw [hbody, loopResult, loopRun_filterStep, map_readEntry_range' hi, hd, filterPass, delayAfter]
  have hloop := reaches_leaveLoop (n := s.work.len.toNat) (.inr (.inl hp)) (by simp [hi, loopBound_filt hp])
    (by rw [loopBound_filt hp]; exact s.work.len.isLt)
  rw [loopAfter_of_result hi hresult, BitVec.ofNat_toNat, BitVec.setWidth_eq] at hloop
  simp only [leaveLoop, setIndex_seq, setDelay_seq, storeEntries_seq, hp] at hloop
  exact hloop

/-- The narrowing loop is the narrowing stage (rule R176). -/
theorem reaches_narrowStage (hp : s.seq.phase = .narrow) (hi : s.seq.i = 0#32) :
    Reaches s (leaveNarrow (narrowStage s)) := by
  have hbody : loopBody s = fun _ e x => (narrowStep s.cfg.narrowMode x, e) := by simp only [loopBody, hp]
  have hresult : loopResult (loopBody s) s.work.len.toNat s =
      ((readEntries s.work).map (narrowStep s.cfg.narrowMode), s.delay) := by
    rw [hbody, loopResult, loopRun_of_entry, map_readEntry_range' hi]
  have hloop := reaches_leaveLoop (n := s.work.len.toNat) (.inr (.inr hp)) (by simp [hi, loopBound_narrow hp])
    (by rw [loopBound_narrow hp]; exact s.work.len.isLt)
  rw [loopAfter_of_result hi hresult, BitVec.ofNat_toNat, BitVec.setWidth_eq] at hloop
  simp only [leaveLoop, setIndex_seq, setDelay_seq, storeEntries_seq, hp] at hloop
  exact hloop

end Stages

/-! ## From phase to phase (rule R200)

A stage overwrites the index and, for the filter, the delay registers, and what follows it overwrites the phase. -/

theorem narrowStage_setPhase (p : Phase) (s : State) : narrowStage (setPhase p s) = setPhase p (narrowStage s) := by rfl

theorem complete_setPhase (p : Phase) (s : State) : complete (setPhase p s) = complete s := by rfl

theorem leaveEqualizer_setPhase (p : Phase) (s : State) : leaveEqualizer (setPhase p s) = leaveEqualizer s := by rfl

@[simp] theorem filtStage_seq (s : State) : (filtStage s).seq = { s.seq with i := s.work.len } := by simp [filtStage]

@[simp] theorem narrowStage_seq (s : State) : (narrowStage s).seq = { s.seq with i := s.work.len } := by
  simp [narrowStage]

@[simp] theorem bandStage_seq (k : BitVec 4) (s : State) :
    (bandStage k s).seq = { s.seq with k := k, i := s.work.len } := by
  simp [bandStage]

theorem reaches_enterFilt (s : State) : Reaches (enterFilt s) (leaveFilt (setPhase .filt (filtStage s))) := by
  exact reaches_filtStage (s := enterFilt s) rfl rfl rfl

theorem reaches_enterNarrow (s : State) : Reaches (enterNarrow s) (leaveNarrow (setPhase .narrow (narrowStage s))) := by
  exact reaches_narrowStage (s := enterNarrow s) rfl rfl

section Design

variable {s : State}

/-- In the equalizer sequence the design is the band's, and the filter is next. -/
theorem sequencerStep_enterDesign_band (heq : inEqualizer s.seq = true) :
    sequencerStep (enterDesign s) = enterFilt (designBandStage s.seq.k s) := by
  have hopc : ¬ (s.seq.opc = 2#4 ∨ s.seq.opc = 3#4) := by
    rcases (inEqualizer_iff _).mp heq with h | ⟨h, -⟩ <;> simp [h]
  have hstep : sequencerStep (enterDesign s) = leaveDesign (designBandStage s.seq.k (enterDesign s)) :=
    if_pos (.inr heq)
  rw [hstep]
  exact if_neg hopc

/-- Outside the equalizer sequence a command that filters designs the resonator set. -/
theorem sequencerStep_enterDesign_res (heq : inEqualizer s.seq = false) (h2 : s.seq.opc ≠ 2#4)
    (h3 : s.seq.opc ≠ 3#4) : sequencerStep (enterDesign s) = enterFilt (designResStage s) := by
  have hstep : sequencerStep (enterDesign s) = leaveDesign (designResStage (enterDesign s)) :=
    if_neg (by simpa [enterDesign, inEqualizer, h3] using heq)
  rw [hstep]
  exact if_neg (by simp [enterDesign, h2, h3])

/-- Outside the equalizer sequence a run ends with the filter. -/
theorem leaveFilt_of_not_inEqualizer {p : Phase} (heq : inEqualizer s.seq = false) :
    leaveFilt (setPhase p s) = complete s := by
  have hleave : leaveFilt (setPhase p s) = complete (setPhase p s) := if_neg (by simpa [inEqualizer] using heq)
  rw [hleave, complete_setPhase]

theorem reaches_resStage (heq : inEqualizer s.seq = false) (h2 : s.seq.opc ≠ 2#4) (h3 : s.seq.opc ≠ 3#4) :
    Reaches (enterDesign s) (complete (resStage s)) := by
  have hdesign := reaches_sequencerStep (enterDesign s)
  have hfilt := reaches_enterFilt (designResStage s)
  have hleave : inEqualizer (filtStage (designResStage s)).seq = false := by simpa [inEqualizer] using heq
  rw [sequencerStep_enterDesign_res heq h2 h3] at hdesign
  rw [leaveFilt_of_not_inEqualizer hleave] at hfilt
  exact hdesign.trans hfilt

end Design

/-! ## The equalizer sequence -/

section Equalizer

variable {s : State} (heq : inEqualizer s.seq = true)
include heq

theorem inEqualizer_bandStage (k : BitVec 4) : inEqualizer (bandStage k s).seq = true := by
  simpa [inEqualizer] using heq

/-- Design, filter and narrowing of a band (rule R175). -/
theorem reaches_bandStage (k : BitVec 4) :
    Reaches (enterDesign (setBand k s)) (leaveNarrow (setPhase .narrow (bandStage k s))) := by
  have hdesign := reaches_sequencerStep (enterDesign (setBand k s))
  have hfilt := reaches_enterFilt (designBandStage k (setBand k s))
  have hnarrow := reaches_enterNarrow (setPhase .filt (filtStage (designBandStage k (setBand k s))))
  have hleave : leaveFilt (setPhase .filt (filtStage (designBandStage k (setBand k s)))) =
      enterNarrow (setPhase .filt (filtStage (designBandStage k (setBand k s)))) :=
    if_pos (by simpa [inEqualizer] using heq)
  rw [sequencerStep_enterDesign_band (s := setBand k s) heq] at hdesign
  rw [hleave] at hfilt
  rw [narrowStage_setPhase] at hnarrow
  exact hdesign.trans (hfilt.trans hnarrow)

/-- Before the last band comes the design of the next. -/
theorem leaveNarrow_next (p : Phase) (hk : s.seq.k.toNat < 9) :
    leaveNarrow (setPhase p s) = enterDesign (setBand (s.seq.k + 1#4) s) := by
  have hseq : leaveNarrow (setPhase p s) = enterDesign (setBand (s.seq.k + 1#4) (setPhase p s)) :=
    (if_pos heq).trans (if_pos hk)
  rw [hseq]
  rfl

theorem leaveNarrow_last (p : Phase) (hk : 9 ≤ s.seq.k.toNat) : leaveNarrow (setPhase p s) = leaveEqualizer s := by
  have hseq : leaveNarrow (setPhase p s) = leaveEqualizer (setPhase p s) := (if_pos heq).trans (if_neg hk.not_gt)
  rw [hseq, leaveEqualizer_setPhase]

/-- A band before the last ends at the design of the next. -/
theorem reaches_next_band {k : BitVec 4} (hk : k.toNat < 9) :
    Reaches (enterDesign (setBand k s)) (enterDesign (setBand (k + 1#4) (bandStage k s))) := by
  have hband := reaches_bandStage heq k
  rwa [leaveNarrow_next (inEqualizer_bandStage heq k) .narrow (by rwa [bandStage_seq]), bandStage_seq] at hband

theorem reaches_last_band {k : BitVec 4} (hk : 9 ≤ k.toNat) :
    Reaches (enterDesign (setBand k s)) (leaveEqualizer (bandStage k s)) := by
  have hband := reaches_bandStage heq k
  rwa [leaveNarrow_last (inEqualizer_bandStage heq k) .narrow (by rwa [bandStage_seq])] at hband

end Equalizer

/-- The bands from `k` on, `n` of them after it. -/
def bandsFrom (k : BitVec 4) : Nat → List (BitVec 4)
  | 0 => [k]
  | n + 1 => k :: bandsFrom (k + 1#4) n

theorem bandsFrom_zero : bandsFrom 0#4 9 = bandOrder := by decide

/-- From the design of any band the sequence runs through the last (rule R175). -/
theorem reaches_bandsFrom {s : State} {k : BitVec 4} {n : Nat} (heq : inEqualizer s.seq = true)
    (hk : k.toNat + n = 9) :
    Reaches (enterDesign (setBand k s)) (leaveEqualizer ((bandsFrom k n).foldl (fun t j => bandStage j t) s)) := by
  induction n generalizing k s with
  | zero => exact reaches_last_band heq (by omega)
  | succ n ih =>
    have hnext : (k + 1#4).toNat + n = 9 := by bv_omega
    have hrest := ih (inEqualizer_bandStage heq k) hnext
    rw [bandsFrom, List.foldl_cons]
    exact (reaches_next_band heq (by omega)).trans hrest

/-- The ten bands (rule R186). -/
theorem reaches_eqStage {s : State} (heq : inEqualizer s.seq = true) :
    Reaches (enterDesign (setBand 0#4 s)) (leaveEqualizer (eqStage s)) := by
  rw [eqStage, ← bandsFrom_zero]
  exact reaches_bandsFrom heq (by decide)

/-! ## `SYNTH` after its generator (rules R196, R200) -/

section Synth

variable {s : State} (hopc : s.seq.opc = 8#4)
include hopc

/-- The sequencer reads the opcode where the pipeline asks which parts are enabled. -/
theorem reaches_resIfEnabled : Reaches (leaveEqualizer s) (complete (resIfEnabled s)) := by
  by_cases hres : resEn s.par = true
  · have hleave : leaveEqualizer s = enterDesign (setStage .res s) := if_pos ⟨hopc, hres⟩
    rw [hleave, resIfEnabled_of_enabled hres]
    exact reaches_resStage (by simp [inEqualizer, hopc]) (by simp [hopc]) (by simp [hopc])
  · have hleave : leaveEqualizer s = complete s := if_neg fun h => hres h.2
    rw [hleave, resIfEnabled_of_disabled hres]
    exact .refl _

theorem reaches_eqIfEnabled : Reaches (leaveGen s) (leaveEqualizer (eqIfEnabled s)) := by
  by_cases he : eqEn s.par = true
  · have hleave : leaveGen s = enterDesign (setBand 0#4 (setStage .eq s)) := if_pos ⟨hopc, he⟩
    rw [hleave, eqIfEnabled_of_enabled he]
    exact reaches_eqStage ((inEqualizer_iff _).mpr (.inr ⟨hopc, rfl⟩))
  · have hleave : leaveGen s = leaveEqualizer s := if_neg fun h => he h.2
    rw [hleave, eqIfEnabled_of_disabled he]
    exact .refl _

end Synth

/-! ## The micro-steps of a command -/

theorem leaveEqualizer_of_opc_ne {s : State} (h : s.seq.opc ≠ 8#4) : leaveEqualizer s = complete s :=
  if_neg fun hsynth => h hsynth.1

theorem leaveGen_of_opc_ne {s : State} (h : s.seq.opc ≠ 8#4) : leaveGen s = complete s := by
  rw [← leaveEqualizer_of_opc_ne h]
  exact if_neg fun hsynth => h hsynth.1

/-- The two designer commands complete with their one design (rule R200). -/
theorem sequencerStep_accept_dsgnRes (s : State) :
    sequencerStep (accept .dsgnRes s) = complete (designResStage (accept .dsgnRes s)) := by rfl

theorem sequencerStep_accept_dsgnEq (k : BitVec 4) (s : State) :
    sequencerStep (accept (.dsgnEq k) s) = complete (designBandStage k (accept (.dsgnEq k) s)) := by rfl

@[simp] theorem genStage_seq (s : State) : (genStage s).seq = { s.seq with i := BitVec.ofNat 32 (genLengthD s.par) } := by
  simp [genStage]

@[simp] theorem eqIfEnabled_opc (s : State) : (eqIfEnabled s).seq.opc = s.seq.opc := by
  unfold eqIfEnabled
  split <;> simp [eqStage, bandOrder]

/-- From acceptance the sequencer reaches the state of the whole run, command by command (rule R200). -/
theorem reaches_complete_effectOf {i : Instr} {s : State} (hcfg : s.cfg.wf = true)
    (hc : argCheck s.cfg s.par i = none) : Reaches (accept i s) (complete (effectOf i (accept i s))) := by
  have hbound : firstPhase i = .gen → genLengthD s.par < 2 ^ 32 := fun hi => by
    have hdepth := (genLengthD_le_of_genCheck (genCheck_of_argCheck hc hi)).trans (bufDepth_le_of_wf hcfg)
    omega
  cases i with
  | gen =>
    have hgen := reaches_genStage (s := accept .gen s) rfl rfl (hbound rfl)
    rwa [leaveGen_of_opc_ne (by simp [Instr.opcode])] at hgen
  | dsgnRes => exact sequencerStep_accept_dsgnRes s ▸ reaches_sequencerStep _
  | dsgnEq k => exact sequencerStep_accept_dsgnEq k s ▸ reaches_sequencerStep _
  | filt =>
    have hfilt := reaches_enterFilt (accept .filt s)
    rwa [leaveFilt_of_not_inEqualizer (by simp [inEqualizer, Instr.opcode])] at hfilt
  | narrow =>
    have hnarrow := reaches_enterNarrow (accept .narrow s)
    have hleave : leaveNarrow (setPhase .narrow (narrowStage (accept .narrow s))) =
        complete (setPhase .narrow (narrowStage (accept .narrow s))) :=
      if_neg (by simp [inEqualizer, Instr.opcode])
    rwa [hleave, complete_setPhase] at hnarrow
  | res => exact reaches_resStage (s := accept .res s) rfl (by simp [Instr.opcode]) (by simp [Instr.opcode])
  | equalize =>
    have heq := reaches_eqStage (s := accept .equalize s) rfl
    rwa [leaveEqualizer_of_opc_ne (by simp [eqStage, bandOrder, Instr.opcode])] at heq
  | synth =>
    have hgen := reaches_genStage (s := accept .synth s) rfl rfl (hbound rfl)
    have heq := reaches_eqIfEnabled (s := genStage (accept .synth s)) (by simp [Instr.opcode])
    have hres := reaches_resIfEnabled (s := eqIfEnabled (genStage (accept .synth s))) (by simp [Instr.opcode])
    rw [← synthStage_eq] at hres
    exact hgen.trans (heq.trans hres)

/-- Settles O46: rejected, the run takes no micro-step; accepted, the micro-steps reach the state of the whole run. -/
theorem microStepsRefineTheWholeRun : Obligations.MicroStepsRefineTheWholeRun := by
  unfold Obligations.MicroStepsRefineTheWholeRun
  intro i s hinv hb
  cases hc : argCheck s.cfg s.par i with
  | some e => exact ⟨0, by rw [exec_rejected hb hc, startCommand_rejected hb hc, sequencerRun]⟩
  | none =>
    obtain ⟨n, hrun⟩ := reaches_complete_effectOf hinv.cfg hc
    exact ⟨n, by rw [startCommand_accepted hb hc, hrun, exec_eq_runCommand, runCommand_accepted _ hb hc]⟩

end Sys2Proof.Machine
end

section
/-! PROOFS. Every run completes (70_reset_and_hazards.md rule R237), and a host that waits for it sees it complete
(30_encoding.md rule R88): the polls of `wait` are micro-steps that only the model's own fields record. -/

namespace Sys2Proof.Machine

/-! ## Where every phase leads -/

/-- The micro-steps from `s` end in the completion of a running command. -/
def Completes (s : State) : Prop := ∃ t, t.status = statusBusy ∧ Reaches s (complete t)

theorem Reaches.completes {s t : State} (h : Reaches s t) (ht : Completes t) : Completes s := by
  obtain ⟨u, hu, hrun⟩ := ht
  exact ⟨u, hu, h.trans hrun⟩

theorem foldl_bandStage_status (ks : List (BitVec 4)) (s : State) :
    (ks.foldl (fun t k => bandStage k t) s).status = s.status := by
  induction ks generalizing s with
  | nil => rfl
  | cons k ks ih => rw [List.foldl_cons, ih, bandStage_status]

section Leave

variable {s : State} (h : s.status = statusBusy)
include h

theorem completes_complete : Completes (complete s) := ⟨s, h, .refl _⟩

theorem completes_leaveEqualizer : Completes (leaveEqualizer s) := by
  rcases leaveEqualizer_cases s with heq | ⟨hopc, -, heq⟩ <;> rw [heq]
  · exact completes_complete h
  · exact ⟨resStage (setStage .res s), by simp [h],
      reaches_resStage (by simp [inEqualizer, hopc]) (by simp [hopc]) (by simp [hopc])⟩

theorem completes_leaveGen : Completes (leaveGen s) := by
  rcases leaveGen_cases s with heq | ⟨hopc, -, heq⟩ <;> rw [heq]
  · exact completes_leaveEqualizer h
  · have hbands := reaches_eqStage (s := setStage .eq s) ((inEqualizer_iff _).mpr (.inr ⟨hopc, rfl⟩))
    exact hbands.completes (completes_leaveEqualizer (by simp [h]))

/-- From the end of a band the sequence runs through those that are left. -/
theorem completes_leaveNarrow : Completes (leaveNarrow s) := by
  rcases leaveNarrow_cases s with ⟨-, hleave⟩ | ⟨heq, hk, hleave⟩ | ⟨-, -, hleave⟩ <;> rw [hleave]
  · exact completes_complete h
  · have hleft : (s.seq.k + 1#4).toNat + (8 - s.seq.k.toNat) = 9 := by bv_omega
    exact (reaches_bandsFrom heq hleft).completes
      (completes_leaveEqualizer ((foldl_bandStage_status _ s).trans h))
  · exact completes_leaveEqualizer h

theorem completes_leaveFilt : Completes (leaveFilt s) := by
  rcases leaveFilt_cases s with ⟨-, heq⟩ | ⟨-, heq⟩ <;> rw [heq]
  · exact (reaches_enterNarrow s).completes (completes_leaveNarrow (by simp [h]))
  · exact completes_complete h

theorem completes_leaveDesign : Completes (leaveDesign s) := by
  rcases leaveDesign_cases s with ⟨-, heq⟩ | ⟨-, -, heq⟩ <;> rw [heq]
  · exact completes_complete h
  · exact (reaches_enterFilt s).completes (completes_leaveFilt (by simp [h]))

theorem completes_leaveLoop (hloop : InLoop s) : Completes (leaveLoop s) := by
  rcases hloop with hp | hp | hp <;> simp only [leaveLoop, hp]
  · exact completes_leaveGen ((storeLen_status _ s).trans h)
  · exact completes_leaveFilt h
  · exact completes_leaveNarrow h

theorem completes_stepDesign : Completes (stepDesign s) := by
  unfold stepDesign
  split <;> exact completes_leaveDesign (by simp [h])

end Leave

section Running

variable {s : State} (h : s.Inv) (hb : s.status.busy = true)
include h hb

/-- The bound of a running loop fits the index register (rules R6, R36). -/
theorem loopBound_lt (hloop : InLoop s) : loopBound s < 2 ^ 32 := by
  obtain ⟨-, -, -, -, -, hcheck⟩ := (runningOk_iff s).mp (h.running hb)
  rcases hloop with hp | hp | hp
  · have hdepth := (genLengthD_le_of_genCheck (hcheck hp)).trans (bufDepth_le_of_wf h.cfg)
    rw [loopBound_gen hp]
    omega
  · rw [loopBound_filt hp]
    exact s.work.len.isLt
  · rw [loopBound_narrow hp]
    exact s.work.len.isLt

theorem completes_loop (hloop : InLoop s) : Completes s := by
  obtain ⟨-, -, hi, -⟩ := (runningOk_iff s).mp (h.running hb)
  have hrun := reaches_leaveLoop hloop (Nat.add_sub_cancel' hi) (loopBound_lt h hb hloop)
  exact hrun.completes (completes_leaveLoop (h.inRun hb).status hloop)

/-- Whatever turn a running command is at, it completes (rule R237). -/
theorem completes_of_running : Completes s := by
  cases hp : s.seq.phase with
  | idle =>
    have hidle := h.phase.mp hp
    simp [hb] at hidle
  | gen => exact completes_loop h hb (.inl hp)
  | design =>
    have hstep : sequencerStep s = stepDesign s := by simp [sequencerStep, hp]
    exact (hstep ▸ reaches_sequencerStep s).completes (completes_stepDesign (h.inRun hb).status)
  | filt => exact completes_loop h hb (.inr (.inl hp))
  | narrow => exact completes_loop h hb (.inr (.inr hp))

theorem exists_sequencerRun_done :
    ∃ n, (sequencerRun n s).status = statusDone ∧ (sequencerRun n s).seq.phase = .idle := by
  obtain ⟨t, ht, n, hrun⟩ := completes_of_running h hb
  exact ⟨n, by rw [hrun, complete_status, ht, statusComplete_statusBusy], by rw [hrun, complete_seq]⟩

end Running

/-! ## The host that waits (rule R88) -/

theorem statusWord_busy (st : Status) : (statusWord st).getLsbD 0 = st.busy := by
  obtain ⟨busy, done, err, errCode⟩ := st
  revert busy done err errCode
  decide

/-- Micro-steps leave `BUSY` alone in `STATUS`, or `DONE` alone. -/
theorem sequencerRun_status {s : State} (h : s.status = statusBusy ∨ s.status = statusDone) (n : Nat) :
    (sequencerRun n s).status = statusBusy ∨ (sequencerRun n s).status = statusDone := by
  induction n generalizing s with
  | zero => exact h
  | succ n ih =>
    refine ih (s := sequencerStep s) ?_
    rcases sequencerStep_hidesOrCompletes s with hsame | ⟨r, hsame, heq⟩
    · rwa [hsame.status]
    · rw [heq, complete_status, hsame.status]
      rcases h with hbusy | hdone
      · exact .inr (by rw [hbusy, statusComplete_statusBusy])
      · exact .inr (by rw [hdone]; rfl)

section Wait

variable {s : State} {rest : List HostEvent} (hin : s.inputs = .wait :: rest)
include hin

/-- Idle, one poll reads `STATUS` and ends the wait. -/
theorem step_wait_idle (hb : s.status.busy = false) :
    step s = .next (s.withHost rest (statusWord s.status) (s.draws + 1)) := by
  have hread : readData { s with inputs := rest } statusRead = statusWord s.status :=
    (readData_reg _ rfl).trans (regRead_idle hb .status)
  rw [step_wait hin, hostPoll_idle (s := { s with inputs := rest }) hb, hostRead, hread]
  rfl

/-- Busy, a poll is a turn of the sequencer, and the host goes on waiting. -/
theorem step_wait_busy (hb : s.status.busy = true) :
    ∃ rdata draws, step s = .next ((sequencerStep s).withHost (.wait :: rest) rdata draws) := by
  rw [step_wait hin]
  rcases hostPoll_cases { s with inputs := rest } with ⟨-, heq⟩ | ⟨hidle, -⟩
  · have hturn : sequencerStep (hostRead statusRead { s with inputs := rest }) =
        (sequencerStep s).withHost rest (readData { s with inputs := rest } statusRead) (s.draws + 1) :=
      sequencerStep_withHost _ _ _ s
    rw [heq, hturn]
    exact ⟨_, _, rfl⟩
  · cases hidle.symm.trans hb

end Wait

/-- The polls of `wait` are the micro-steps up to the first state that is not busy, in which the host reads `STATUS`. -/
theorem stepRun_wait {s : State} {rest : List HostEvent} {m : Nat} (hin : s.inputs = .wait :: rest)
    (hm : (sequencerRun m s).status.busy = false) :
    ∃ n k draws, stepRun n s =
        .next ((sequencerRun k s).withHost rest (statusWord (sequencerRun k s).status) draws) ∧
      (sequencerRun k s).status.busy = false ∧ (s.status.busy = false → k = 0) := by
  induction m generalizing s with
  | zero => exact ⟨1, 0, _, by rw [stepRun, step_wait_idle hin hm]; rfl, hm, fun _ => rfl⟩
  | succ m ih =>
    cases hb : s.status.busy with
    | false => exact ⟨1, 0, _, by rw [stepRun, step_wait_idle hin hb]; rfl, hb, fun _ => rfl⟩
    | true =>
      obtain ⟨rdata, draws, hstep⟩ := step_wait_busy hin hb
      obtain ⟨n, k, draws', hrun, hidle, -⟩ := ih (s := (sequencerStep s).withHost (.wait :: rest) rdata draws) rfl
        (by rw [sequencerRun_withHost]; exact hm)
      rw [sequencerRun_withHost] at hrun hidle
      exact ⟨n + 1, k + 1, draws', by rw [stepRun, hstep]; exact hrun, hidle, fun h => by cases h⟩

/-- Settles O47: every phase of a run leads to completion, and `wait` polls until then. -/
theorem everyRunCompletes : Obligations.EveryRunCompletes := by
  unfold Obligations.EveryRunCompletes
  refine ⟨fun s hinv hb => exists_sequencerRun_done hinv hb, fun s rest hinv hin => ?_⟩
  have hends : ∃ m, (sequencerRun m s).status.busy = false := by
    cases hb : s.status.busy with
    | false => exact ⟨0, hb⟩
    | true =>
      obtain ⟨m, hdone, -⟩ := exists_sequencerRun_done hinv hb
      exact ⟨m, by rw [hdone, statusDone]⟩
  obtain ⟨m, hm⟩ := hends
  obtain ⟨n, k, draws, hrun, hidle, hzero⟩ := stepRun_wait hin hm
  refine ⟨n, k, _, hrun, rfl, hidle, rfl, (statusWord_busy _).trans hidle, fun hb => ?_, hzero, rfl⟩
  refine (sequencerRun_status (.inl (hinv.inRun hb).status) k).resolve_left fun hbusy => ?_
  rw [hbusy] at hidle
  cases hidle

end Sys2Proof.Machine
end
